-- ==== Sys2Proof/Word.lean ====
section
/-! DEFINITION. The word types of OTPCORE: a byte, a 32-bit register word (spec/00_scope.md R7) and the
64-bit counter and SHA-512 word. -/

namespace Sys2Proof

/-- 8 bits (00_scope.md, Notation). -/
abbrev Byte := BitVec 8

/-- One register, one bus datum, one command word: 32 bits (R7, R61, R80). -/
abbrev Word := BitVec 32

/-- The 64-bit counter (R36) and the SHA-512 word (R140). -/
abbrev Word64 := BitVec 64

end Sys2Proof
end

