-- ==== Sys2Proof/Machine/Bytes.lean ====
section
/-! DEFINITION. Byte sequences and big-endian packing (spec/00_scope.md, Notation; spec/20_memory.md R67). -/

namespace Sys2Proof.Machine

/-- BE(b): the unsigned integer of a byte sequence, first byte most significant. -/
def be (b : List Byte) : Nat := b.foldl (fun acc x => acc * 256 + x.toNat) 0

/-- BEn(v): the n bytes of v, most significant first. -/
def toBE : Nat → Nat → List Byte
  | 0, _ => []
  | n + 1, v => BitVec.ofNat 8 (v / 256 ^ n) :: toBE n v

/-- zeros(k). -/
def zeros (k : Nat) : List Byte := List.replicate k 0

/-- rep(x, k). -/
def rep (x : Byte) (k : Nat) : List Byte := List.replicate k x

/-- a XOR b, bytewise on sequences of equal length. -/
def xorBytes (a b : List Byte) : List Byte := List.zipWith (· ^^^ ·) a b

/-- The first `count` groups of `n` bytes of a sequence. -/
def groups (n : Nat) : Nat → List Byte → List (List Byte)
  | 0, _ => []
  | count + 1, b => b.take n :: groups n count (b.drop n)

end Sys2Proof.Machine
end

