-- ==== Sys2Proof/Syntax.lean ====
section
/-! DEFINITION. The commands of OTPCORE: one constructor of `Instr` for each row of spec/opcode_table.json
(spec/30_encoding.md R87), the hash algorithms (R83) and the error codes (spec/60_exceptions.md R310). -/

namespace Sys2Proof

/-- The hash algorithm (R6, R83): exactly three. The reserved value 0b11 is no algorithm. -/
inductive Alg where
  | sha1
  | sha256
  | sha512
deriving DecidableEq, Repr

/-- The error codes 1 to 8 of R310; code 0 is "no error" (`none` where a code may be absent). -/
inductive ErrCode where
  /-- 1: OPC is not an assigned opcode. -/
  | eOpc
  /-- 2: a reserved bit, or a field the opcode does not use, is nonzero. -/
  | eRsvd
  /-- 3: ALG = 0b11. -/
  | eAlg
  /-- 4: DIG = 0. -/
  | eDigits
  /-- 5: KSTATE is not LOADING. -/
  | eSeq
  /-- 6: KSTATE is not READY. -/
  | eNoKey
  /-- 7: the key would exceed 2^32 - 1 bytes. -/
  | eKeyLen
  /-- 8: the truncation window outside the digest. Unreachable (R312); the model never records it (log entry 10). -/
  | eInternal
deriving DecidableEq, Repr

/-- The eleven assigned opcodes, the rows of R87's table. -/
inductive Op where
  | nop
  | sreset
  | clrErr
  | keyBegin
  | keyAppend
  | keyEnd
  | keyZero
  | hmac
  | trunc
  | reduce
  | derive
deriving DecidableEq, Repr

/-- A command with its operands (R81, R91). -/
inductive Instr where
  /-- NOP (R100). -/
  | nop
  /-- SRESET (R101). -/
  | sreset
  /-- CLR_ERR (R102). -/
  | clrErr
  /-- KEY_BEGIN alg (R120). -/
  | keyBegin (alg : Alg)
  /-- KEY_APPEND nb, nb the byte count NB (R84, R121). -/
  | keyAppend (nb : Nat)
  /-- KEY_END (R122). -/
  | keyEnd
  /-- KEY_ZERO (R123). -/
  | keyZero
  /-- HMAC (R150). -/
  | hmac
  /-- TRUNC alg (R200). -/
  | trunc (alg : Alg)
  /-- REDUCE n, n the digit count N (R85, R220). -/
  | reduce (n : Nat)
  /-- DERIVE n (R240). -/
  | derive (n : Nat)
deriving DecidableEq, Repr

/-- The row of the opcode table a command belongs to. -/
def Instr.op : Instr → Op
  | .nop => .nop
  | .sreset => .sreset
  | .clrErr => .clrErr
  | .keyBegin _ => .keyBegin
  | .keyAppend _ => .keyAppend
  | .keyEnd => .keyEnd
  | .keyZero => .keyZero
  | .hmac => .hmac
  | .trunc _ => .trunc
  | .reduce _ => .reduce
  | .derive _ => .derive

end Sys2Proof
end

