-- ==== Sys2Proof/WellFormed.lean ====
section
/-! DEFINITION. Which command terms have an encoding that executes (spec/30_encoding.md R84, R85, R88). -/

namespace Sys2Proof

/-- NB is 1, 2, 3 or 4 (R84). -/
def wfByteCount (nb : Nat) : Bool := 1 ≤ nb && nb ≤ 4

/-- N is 1 to 255 (R85): 0 is rejected and more than 255 cannot be encoded. -/
def wfDigits (n : Nat) : Bool := 1 ≤ n && n ≤ 255

/-- The command's operands are within the ranges the encoding admits. The reserved algorithm 0b11 is no term of `Alg`. -/
def Instr.wf : Instr → Bool
  | .nop => true
  | .sreset => true
  | .clrErr => true
  | .keyBegin _ => true
  | .keyAppend nb => wfByteCount nb
  | .keyEnd => true
  | .keyZero => true
  | .hmac => true
  | .trunc _ => true
  | .reduce n => wfDigits n
  | .derive n => wfDigits n

end Sys2Proof
end

