-- ==== Sys2Proof/Decode.lean ====
section
/-! DEFINITION. The command word (spec/30_encoding.md R80 to R91): the opcode map, the decoder, total on every word and
rejecting by the error the spec names, and after it the encoder and the assembly text. A command is one 32-bit word
written in one bus transaction (R80), so there is no byte order to lay out. -/

namespace Sys2Proof

/-- The opcode OPC of each row of R87. -/
def Op.opc : Op → BitVec 8
  | .nop => 0x00
  | .sreset => 0x01
  | .clrErr => 0x02
  | .keyBegin => 0x10
  | .keyAppend => 0x11
  | .keyEnd => 0x12
  | .keyZero => 0x13
  | .hmac => 0x20
  | .trunc => 0x21
  | .reduce => 0x22
  | .derive => 0x23

/-- The `mask` column of R87: the bits left free are the used fields. -/
def Op.mask : Op → Word
  | .nop => 0xFFFFFFFF
  | .sreset => 0xFFFFFFFF
  | .clrErr => 0xFFFFFFFF
  | .keyBegin => 0xFFFFFCFF
  | .keyAppend => 0xFFFFF3FF
  | .keyEnd => 0xFFFFFFFF
  | .keyZero => 0xFFFFFFFF
  | .hmac => 0xFFFFFFFF
  | .trunc => 0xFFFFFCFF
  | .reduce => 0xFF00FFFF
  | .derive => 0xFF00FFFF

/-- The `match` column of R87. -/
def Op.bits : Op → Word
  | .nop => 0x00000000
  | .sreset => 0x00000001
  | .clrErr => 0x00000002
  | .keyBegin => 0x00000010
  | .keyAppend => 0x00000011
  | .keyEnd => 0x00000012
  | .keyZero => 0x00000013
  | .hmac => 0x00000020
  | .trunc => 0x00000021
  | .reduce => 0x00000022
  | .derive => 0x00000023

/-- Every row of R87. -/
def Op.all : List Op :=
  [.nop, .sreset, .clrErr, .keyBegin, .keyAppend, .keyEnd, .keyZero, .hmac, .trunc, .reduce, .derive]

/-- The row an OPC value selects (R82); `none` for the unassigned values (R87). -/
def opOf (o : BitVec 8) : Option Op := Op.all.find? fun op => op.opc == o

/-- OPC = w[7:0] (R81). -/
def opcField (w : Word) : BitVec 8 := w.extractLsb' 0 8

/-- ALG = w[9:8] (R81). -/
def algField (w : Word) : BitVec 2 := w.extractLsb' 8 2

/-- NBM1 = w[11:10] (R81). -/
def nbm1Field (w : Word) : BitVec 2 := w.extractLsb' 10 2

/-- DIG = w[23:16] (R81). -/
def digField (w : Word) : BitVec 8 := w.extractLsb' 16 8

/-- The ALG encoding (R83), also the encoding of STATUS.KALG (R31). -/
def Alg.code : Alg → BitVec 2
  | .sha1 => 0b00
  | .sha256 => 0b01
  | .sha512 => 0b10

/-- The algorithm an ALG value selects (R83): 0b11 is reserved. -/
def algOf (c : BitVec 2) : Option Alg :=
  if c = 0b00 then some .sha1 else if c = 0b01 then some .sha256 else if c = 0b10 then some .sha512 else none

/-- The last checks of R90, on a word that meets its row's mask: ALG = 0b11 is E_ALG, DIG = 0 is E_DIGITS. -/
def decodeFields (op : Op) (w : Word) : Except ErrCode Instr :=
  match op with
  | .nop => .ok .nop
  | .sreset => .ok .sreset
  | .clrErr => .ok .clrErr
  | .keyBegin =>
    match algOf (algField w) with
    | none => .error .eAlg
    | some a => .ok (.keyBegin a)
  | .keyAppend => .ok (.keyAppend ((nbm1Field w).toNat + 1))
  | .keyEnd => .ok .keyEnd
  | .keyZero => .ok .keyZero
  | .hmac => .ok .hmac
  | .trunc =>
    match algOf (algField w) with
    | none => .error .eAlg
    | some a => .ok (.trunc a)
  | .reduce => if digField w = 0 then .error .eDigits else .ok (.reduce (digField w).toNat)
  | .derive => if digField w = 0 then .error .eDigits else .ok (.derive (digField w).toNat)

/-- The decode function of R90, its checks in the order of R311's priority: E_OPC, E_RSVD, then E_ALG and E_DIGITS. -/
def decode (w : Word) : Except ErrCode Instr :=
  match opOf (opcField w) with
  | none => .error .eOpc
  | some op => if w &&& op.mask ≠ op.bits then .error .eRsvd else decodeFields op w

/-- The word of a command, from R91's table. -/
def encode : Instr → Word
  | .nop => 0x00000000#32
  | .sreset => 0x00000001#32
  | .clrErr => 0x00000002#32
  | .keyBegin a => 0x00000010#32 ||| (a.code.setWidth 32 <<< 8)
  | .keyAppend nb => 0x00000011#32 ||| (BitVec.ofNat 32 (nb - 1) <<< 10)
  | .keyEnd => 0x00000012#32
  | .keyZero => 0x00000013#32
  | .hmac => 0x00000020#32
  | .trunc a => 0x00000021#32 ||| (a.code.setWidth 32 <<< 8)
  | .reduce n => 0x00000022#32 ||| (BitVec.ofNat 32 n <<< 16)
  | .derive n => 0x00000023#32 ||| (BitVec.ofNat 32 n <<< 16)

/-- The operand spelling of an algorithm (R91). -/
def Alg.spelling : Alg → String
  | .sha1 => "sha1"
  | .sha256 => "sha256"
  | .sha512 => "sha512"

/-- The assembly text of a command (R91). -/
def Instr.assembly : Instr → String
  | .nop => "NOP"
  | .sreset => "SRESET"
  | .clrErr => "CLR_ERR"
  | .keyBegin a => "KEY_BEGIN " ++ a.spelling
  | .keyAppend nb => "KEY_APPEND " ++ toString nb
  | .keyEnd => "KEY_END"
  | .keyZero => "KEY_ZERO"
  | .hmac => "HMAC"
  | .trunc a => "TRUNC " ++ a.spelling
  | .reduce n => "REDUCE " ++ toString n
  | .derive n => "DERIVE " ++ toString n

/-- The instruction the decoder reads from an opcode-table word of `nbits` bits (the bits above are 0). -/
def decodeTableWord (nbits w : Nat) : Option Instr :=
  match decode (BitVec.ofNat 32 (w % 2 ^ nbits)) with
  | .ok i => some i
  | .error _ => none

end Sys2Proof
end

