-- ==== Sys2Proof/Config.lean ====
section
/-! DEFINITION. What one implementation of OTPCORE fixes (spec/00_scope.md R7) and the one free value of the spec
(spec/20_memory.md R66). The opaque constants have no body: no proof can see a value of theirs. -/

namespace Sys2Proof

/-- The identification value ID reads as (R7, R23): the ASCII bytes OTPC, first byte in bits 31:24. -/
def Config.idValue : Word := 0x4F545043

/-- The size of the register window in bytes (R7, R60). -/
def Config.windowSize : Nat := 0x80

/-- Which 128-byte page of the host's address space the window stands in: OPEN in R7 (log entry 9). -/
opaque Config.basePage : Nat

/-- BASE, any 128-byte-aligned address (R7, R60). -/
def Config.base : Nat := Config.windowSize * Config.basePage

/-- The buses the block may be built for (92_eei_decisions.md D2). -/
inductive BusProtocol where
  | apb
  | axiLite
  | other
deriving DecidableEq, Repr, Inhabited

/-- BUS_PROTOCOL, OPEN in R7: the model sees single 32-bit transactions and no rule reads it (R61). -/
opaque Config.busProtocol : BusProtocol

/-- FREE VALUE. What the n-th read of a result register made while BUSY = 1 returns: R66 lets it be any 32-bit value,
a draw of its own for each read (93_implementation_defined.md U1; log entry 6). -/
opaque Config.busyRead : Nat → Word

end Sys2Proof
end

