-- ==== Sys2Proof/Machine/State.lean ====
section
/-! DEFINITION. The state of OTPCORE (spec/10_state.md), the inputs that act on it, and why a step can stop.
Everything is plain data. The registers and the hidden state are the spec's; the last four fields of `State` are the
model's own and say what the outside does next (INVENTORY.md, State). -/

namespace Sys2Proof.Machine

/-- STATUS.KSTATE (R30). The value 0b11 never occurs, so it is no term. -/
inductive KState where
  | none
  | loading
  | ready
deriving DecidableEq, Repr

/-- The engine's pending command with the operands it latched at acceptance (R42, R301). ALG, NB and N stand in the
decoded command `cmd`; the accepted word is its encoding (log entry 11). -/
structure Pending where
  /-- The accepted command with ALG, NB and N. -/
  cmd : Instr
  /-- KEY_DATA at acceptance. -/
  kd : Word
  /-- The counter at acceptance. -/
  ctr : Word64
deriving DecidableEq, Repr

/-- The digest buffer as bytes at their index in DIG (R38), in one canonical form: indexes strictly rising, and no
entry equal to what an unlisted index reads as. -/
abbrev Memory := List Host.Cell

/-- The registers of the window (R22). -/
inductive Reg where
  | id
  | cmd
  | status
  | ie
  | keyData
  | keyLen
  | counterHi
  | counterLo
  | trunc
  | toff
  | code
  | codeDigits
  | digest (i : Fin 16)
deriving DecidableEq, Repr

/-- One entry of the single sequence that interleaves the host's transactions and the engine's completion steps (R70),
with the hardware reset input (R340). An offset is `addr - BASE`, inside the 0x80-byte window (R61). -/
inductive Event where
  /-- MemRead(BASE + off, width). -/
  | read (off : BitVec 7) (width : Nat)
  /-- MemWrite(BASE + off, width, v). -/
  | write (off : BitVec 7) (width : Nat) (v : Word)
  /-- The engine takes its completion step, if one is enabled (R306). -/
  | engine
  /-- The reset input is asserted (R340). -/
  | resetAssert
  /-- The reset input is released (R340). -/
  | resetRelease
deriving DecidableEq, Repr

/-- Why the machine stops with a fault. -/
inductive Fault where
  /-- Raised by a host transaction that is not a 32-bit access at a mapped, aligned offset (R62, U5). It changes no
  state. SAFE: the host goes on after a bus error where the model stops (log entry 5). -/
  | busError
  /-- Raised by a host transaction while the reset input is asserted: the spec gives the model no step for it (R340,
  U6). SAFE (log entry 7). -/
  | accessDuringReset
  /-- Raised by the completion of TRUNC or DERIVE if the truncation window left the digest (R312, U8). Never raised.
  SAFE (log entry 10). -/
  | internalInvariant
deriving DecidableEq, Repr

/-- Why the model gives a step no meaning. -/
inductive Refusal where
  /-- Raised by exec for an instruction whose meaning has not been written; no instruction of this model. SAFE. -/
  | notModelled (mnemonic : String)
deriving DecidableEq, Repr

/-- Everything the spec gives the machine (R22 to R42, R340), and the model's own fields. -/
structure State where
  /-- STATUS.BUSY (R26). -/
  busy : Bool
  /-- STATUS.DONE (R27). -/
  done : Bool
  /-- STATUS.ERR (R28). -/
  err : Bool
  /-- STATUS.OVR (R29). -/
  ovr : Bool
  /-- STATUS.KSTATE (R30). -/
  kstate : KState
  /-- STATUS.KALG (R31). -/
  kalg : Alg
  /-- STATUS.ERRCODE (R28, R310): `none` is code 0. -/
  errcode : Option ErrCode
  /-- IE: bit 0 DONE_IE, bit 1 ERR_IE, bit 2 OVR_IE (R32). -/
  ie : BitVec 3
  /-- KEY_DATA, write-only (R33). -/
  keyData : Word
  /-- KEY_LEN (R37). -/
  keyLen : Word
  /-- COUNTER_HI (R36). -/
  counterHi : Word
  /-- COUNTER_LO (R36). -/
  counterLo : Word
  /-- TRUNC, bits 30:0 (R39). -/
  trunc : BitVec 31
  /-- TOFF, bits 3:0 (R41). -/
  toff : BitVec 4
  /-- CODE (R34). -/
  code : Word
  /-- CODE_DIGITS, bits 7:0 (R35). -/
  codeDigits : BitVec 8
  /-- DIG[0..63] (R38). -/
  dig : Memory
  /-- The key store KEY (R40). -/
  key : List Byte
  /-- The engine's pending command (R42). -/
  pending : Option Pending
  /-- The hardware reset input (R340): `true` while it is asserted. -/
  resetLine : Bool
  /-- MODEL'S OWN: what happens next, in the order of R70 (log entry 1). -/
  events : List Event
  /-- MODEL'S OWN: the data the last host read returned (log entry 8). -/
  rdata : Option Word
  /-- MODEL'S OWN: how many free values have been drawn (R66, log entry 6). -/
  draws : Nat
deriving DecidableEq, Repr

/-- The machine right after hardware reset (R44, R340): the reset input is released and nothing is scheduled. -/
def State.reset : State where
  busy := false
  done := false
  err := false
  ovr := false
  kstate := .none
  kalg := .sha1
  errcode := none
  ie := 0
  keyData := 0
  keyLen := 0
  counterHi := 0
  counterLo := 0
  trunc := 0
  toff := 0
  code := 0
  codeDigits := 0
  dig := []
  key := []
  pending := none
  resetLine := false
  events := []
  rdata := none
  draws := 0

end Sys2Proof.Machine
end

