-- ==== Sys2Proof/Machine/Flags.lean ====
section
/-! DEFINITION. The STATUS word, the interrupt line and the state checks (spec/10_state.md R25 to R32, R43;
spec/60_exceptions.md R310, R311, R320). -/

namespace Sys2Proof.Machine

/-- The KSTATE encoding (R30). -/
def KState.code : KState → BitVec 2
  | .none => 0b00
  | .loading => 0b01
  | .ready => 0b10

/-- The ERRCODE encoding of an error (R310). -/
def errCodeBits : ErrCode → BitVec 4
  | .eOpc => 1
  | .eRsvd => 2
  | .eAlg => 3
  | .eDigits => 4
  | .eSeq => 5
  | .eNoKey => 6
  | .eKeyLen => 7
  | .eInternal => 8

/-- STATUS.ERRCODE: 0 where no error is recorded (R310). -/
def errcodeField (e : Option ErrCode) : BitVec 4 :=
  match e with
  | none => 0
  | some c => errCodeBits c

/-- STATUS as a read returns it (R25): bits 31:12 read 0. -/
def statusWord (s : State) : Word :=
  (0 : BitVec 20) ++ errcodeField s.errcode ++ s.kalg.code ++ s.kstate.code ++
    BitVec.ofBool s.ovr ++ BitVec.ofBool s.err ++ BitVec.ofBool s.done ++ BitVec.ofBool s.busy

/-- IE.DONE_IE (R32). -/
def doneIe (s : State) : Bool := s.ie.getLsbD 0

/-- IE.ERR_IE (R32). -/
def errIe (s : State) : Bool := s.ie.getLsbD 1

/-- IE.OVR_IE (R32). -/
def ovrIe (s : State) : Bool := s.ie.getLsbD 2

/-- The interrupt output IRQ, a function of the state (R43, R320). -/
def irq (s : State) : Bool := (doneIe s && s.done) || (errIe s && s.err) || (ovrIe s && s.ovr)

/-- The greatest key length, 2^32 - 1 bytes (R37, R121). -/
abbrev maxKeyLen : Nat := 2 ^ 32 - 1

/-- E_SEQ unless a key is being appended (R311). -/
def needLoading (s : State) : Option ErrCode :=
  if s.kstate = .loading then none else some .eSeq

/-- E_NOKEY unless a complete key is held (R311). -/
def needReady (s : State) : Option ErrCode :=
  if s.kstate = .ready then none else some .eNoKey

/-- state_check of R311, in its order: E_SEQ, E_NOKEY, E_KEYLEN. -/
def stateCheck (i : Instr) (s : State) : Option ErrCode :=
  match i with
  | .nop => none
  | .sreset => none
  | .clrErr => none
  | .keyBegin _ => none
  | .keyAppend nb =>
    match needLoading s with
    | some e => some e
    | none => if maxKeyLen < s.keyLen.toNat + nb then some .eKeyLen else none
  | .keyEnd => needLoading s
  | .keyZero => none
  | .hmac => needReady s
  | .trunc _ => none
  | .reduce _ => none
  | .derive _ => needReady s

end Sys2Proof.Machine
end

