-- ==== Sys2Proof/Machine/Ops.lean ====
section
/-! DEFINITION. The named operations: the bytes of the digest buffer, and what the command unit does with a command
(spec/60_exceptions.md R300 to R306, R315). OTPCORE has no traps (R314): the one shared operation that reports an
error is `raise`, and `clearError` beside it is the return from one. -/

namespace Sys2Proof.Machine

/-! ### The digest buffer (R38) -/

/-- The number of bytes of DIG. -/
def digLen : Nat := 64

/-- What a byte of DIG that is not listed reads as: its reset value (R38, R44). -/
def unlisted : Byte := 0

/-- DIG[i]. -/
def Memory.read (m : Memory) (i : Nat) : Byte :=
  match m with
  | [] => unlisted
  | c :: rest => if c.1 = i then c.2 else Memory.read rest i

/-- The entry a byte needs: none where the byte is what an unlisted index reads as. -/
def Memory.entry (i : Nat) (b : Byte) : Memory := if b = unlisted then [] else [(i, b)]

/-- DIG[i] <- b, keeping the canonical form. -/
def Memory.write (m : Memory) (i : Nat) (b : Byte) : Memory :=
  match m with
  | [] => Memory.entry i b
  | c :: rest =>
    if i < c.1 then Memory.entry i b ++ c :: rest
    else if c.1 = i then Memory.entry i b ++ rest
    else c :: Memory.write rest i b

/-- Indexes strictly rising from `lo` on and below the buffer's length, no entry equal to what an unlisted byte reads as. -/
def Memory.wfFrom (lo : Nat) (m : Memory) : Bool :=
  match m with
  | [] => true
  | c :: rest => lo ≤ c.1 && c.1 < digLen && c.2 != unlisted && Memory.wfFrom (c.1 + 1) rest

/-- The canonical form. -/
def Memory.wf (m : Memory) : Bool := m.wfFrom 0

/-- DIG[i : i+n] bytes. -/
def Memory.readBytes (m : Memory) (i : Nat) : Nat → List Byte
  | 0 => []
  | n + 1 => m.read i :: m.readBytes (i + 1) n

/-- DIG[i : i+len(b)] bytes <- b. -/
def Memory.writeBytes (m : Memory) (i : Nat) : List Byte → Memory
  | [] => m
  | x :: rest => (m.write i x).writeBytes (i + 1) rest

/-! ### The command unit -/

/-- The 64-bit counter (R36). -/
def counter (s : State) : Word64 := s.counterHi ++ s.counterLo

/-- Accepting a command (R301): BUSY set, DONE cleared, the operands latched; nothing else. -/
def accept (i : Instr) (s : State) : State :=
  { s with busy := true, done := false, pending := some ⟨i, s.keyData, counter s⟩ }

/-- The key discarded (R120, R123, R302): the store emptied, KSTATE NONE, KALG 0b00. -/
def discardKey (s : State) : State :=
  { s with key := [], keyLen := 0, kstate := .none, kalg := .sha1 }

/-- `raise e` (R302): the error recorded and DONE set; E_KEYLEN also discards the key. -/
def raise (e : ErrCode) (s : State) : State :=
  let t := { s with err := true, errcode := some e, done := true }
  if e = .eKeyLen then discardKey t else t

/-- The return from an error (R102, R315): ERR, ERRCODE and OVR cleared. -/
def clearError (s : State) : State := { s with err := false, errcode := none, ovr := false }

/-- A command written while ERR = 1 (R303): only DONE is set. -/
def discard (s : State) : State := { s with done := true }

/-- A write dropped while BUSY = 1 (R304, R65): only OVR is set. -/
def drop (s : State) : State := { s with ovr := true }

/-- The end of a completion step (R306). -/
def finish (s : State) : State := { s with busy := false, done := true, pending := none }

/-- Every piece of the machine's state at its reset value (R44); the model's own fields go on. -/
def resetValues (s : State) : State :=
  { State.reset with resetLine := s.resetLine, events := s.events, rdata := s.rdata, draws := s.draws }

/-- The hardware reset input at a level (R340, R342): every piece of state takes its reset value. -/
def hardReset (asserted : Bool) (s : State) : State := { resetValues s with resetLine := asserted }

/-- The effect of SRESET (R101): reset values, then DONE set. -/
def softReset (s : State) : State := { resetValues s with done := true }

/-- A completion step (R306): the command's effect and the end of the command, together. -/
def complete (effect : Host.Outcome State Fault Refusal) : Host.Outcome State Fault Refusal :=
  match effect with
  | .next t => .next (finish t)
  | .fault r => .fault r
  | .refused r => .refused r

/-- A command as the command unit sees it, for every command but SRESET (log entry 3).
BUSY = 0: it has been presented. It is discarded while ERR = 1 (R303, CLR_ERR excepted), else rejected with the first
error of its state check (R302, R311), else accepted (R301).
BUSY = 1 and it is the pending command: this is its completion step (R306), whose effect gets the latched operands.
BUSY = 1 otherwise: it has been presented while another command runs and is dropped (R304). -/
def command (i : Instr) (effect : Pending → State → Host.Outcome State Fault Refusal) (s : State) :
    Host.Outcome State Fault Refusal :=
  if s.busy then
    match s.pending with
    | some p => if p.cmd = i then complete (effect p s) else .next (drop s)
    | none => .next (drop s)
  else if s.err = true ∧ i ≠ .clrErr then .next (discard s)
  else
    match stateCheck i s with
    | some e => .next (raise e s)
    | none => .next (accept i s)

end Sys2Proof.Machine
end

