-- ==== Sys2Proof/Machine/Control.lean ====
section
/-! DEFINITION. The control commands (spec/40_control.md R100 to R102). -/

namespace Sys2Proof.Machine

/-- NOP (R100): no completion effect. -/
def execNop (s : State) : Host.Outcome State Fault Refusal :=
  command .nop (fun _ t => .next t) s

/-- SRESET (R101, R305): performed at the CMD write in every state, with no completion phase. -/
def execSreset (s : State) : Host.Outcome State Fault Refusal := .next (softReset s)

/-- CLR_ERR (R102): accepted also while ERR = 1 (R303). -/
def execClrErr (s : State) : Host.Outcome State Fault Refusal :=
  command .clrErr (fun _ t => .next (clearError t)) s

end Sys2Proof.Machine
end

