-- ==== Sys2Proof/Machine/Hash.lean ====
section
/-! DEFINITION. SHA-1, SHA-256, SHA-512 and HMAC (spec/42_hmac.md R140 to R149, R151). -/

namespace Sys2Proof.Machine

/-! ### Sizes (R140, R141) -/

/-- L, the digest length in bytes. -/
def digestLen : Alg → Nat
  | .sha1 => 20
  | .sha256 => 32
  | .sha512 => 64

/-- B, the block length in bytes. -/
def blockLen : Alg → Nat
  | .sha1 => 64
  | .sha256 => 64
  | .sha512 => 128

/-- The length of the length field in bytes. -/
def lengthFieldLen : Alg → Nat
  | .sha1 => 8
  | .sha256 => 8
  | .sha512 => 16

/-- The length of a word of the hash in bytes. -/
def hashWordLen : Alg → Nat
  | .sha1 => 4
  | .sha256 => 4
  | .sha512 => 8

/-! ### Padding and parsing (R143, R144) -/

/-- The least k with len + 1 + k + (length field) a multiple of B. -/
def padZeros (alg : Alg) (len : Nat) : Nat :=
  (blockLen alg - (len + 1 + lengthFieldLen alg) % blockLen alg) % blockLen alg

/-- M || 0x80 || zeros(k) || the big-endian bit length. -/
def padded (alg : Alg) (m : List Byte) : List Byte :=
  m ++ 0x80 :: (zeros (padZeros alg m.length) ++ toBE (lengthFieldLen alg) (8 * m.length))

/-- The 16 words of a block, `M(i)_t = BE(block[wt : wt+w] bytes)`. -/
def blockWords (alg : Alg) (w : Nat) (block : List Byte) : List (BitVec w) :=
  (groups (hashWordLen alg) 16 block).map fun g => BitVec.ofNat w (be g)

/-- The padded message as blocks of words, in order. -/
def messageBlocks (alg : Alg) (w : Nat) (m : List Byte) : List (List (BitVec w)) :=
  let p := padded alg m
  (groups (blockLen alg) (p.length / blockLen alg) p).map (blockWords alg w)

/-! ### Functions common to the algorithms (R145, R147, R149) -/

/-- Ch(x, y, z) = (x & y) ^ (~x & z). -/
def ch {w : Nat} (x y z : BitVec w) : BitVec w := (x &&& y) ^^^ (~~~x &&& z)

/-- Parity(x, y, z) = x ^ y ^ z. -/
def parity {w : Nat} (x y z : BitVec w) : BitVec w := x ^^^ y ^^^ z

/-- Maj(x, y, z) = (x & y) ^ (x & z) ^ (y & z). -/
def maj {w : Nat} (x y z : BitVec w) : BitVec w := (x &&& y) ^^^ (x &&& z) ^^^ (y &&& z)

/-- `n` more words of a message schedule held newest first, each made from the words before it. -/
def extendSchedule {w : Nat} (next : List (BitVec w) → BitVec w) : Nat → List (BitVec w) → List (BitVec w)
  | 0, newestFirst => newestFirst
  | n + 1, newestFirst => extendSchedule next n (next newestFirst :: newestFirst)

/-- W_{t-d} in a schedule held newest first. -/
def back {w : Nat} (newestFirst : List (BitVec w)) (d : Nat) : BitVec w := newestFirst.getD (d - 1) 0

/-! ### SHA-1 (R145, R146) -/

/-- The working variables a to e, and the hash value H[0..4]. -/
structure Sha1Vars where
  a : Word
  b : Word
  c : Word
  d : Word
  e : Word
deriving DecidableEq, Repr

/-- H(0) of SHA-1 (R145). -/
def sha1Init : Sha1Vars := ⟨0x67452301, 0xEFCDAB89, 0x98BADCFE, 0x10325476, 0xC3D2E1F0⟩

/-- K_t of SHA-1 (R145). -/
def sha1K (t : Nat) : Word :=
  if t ≤ 19 then 0x5A827999 else if t ≤ 39 then 0x6ED9EBA1 else if t ≤ 59 then 0x8F1BBCDC else 0xCA62C1D6

/-- f_t of SHA-1 (R145). -/
def sha1F (t : Nat) (x y z : Word) : Word :=
  if t ≤ 19 then ch x y z else if t ≤ 39 then parity x y z else if t ≤ 59 then maj x y z else parity x y z

/-- W_t = ROTL_32(W_{t-3} ^ W_{t-8} ^ W_{t-14} ^ W_{t-16}, 1) (R146). -/
def sha1Next (ws : List Word) : Word := (back ws 3 ^^^ back ws 8 ^^^ back ws 14 ^^^ back ws 16).rotateLeft 1

/-- W_0 .. W_79 of a block. -/
def sha1Schedule (m : List Word) : List Word := (extendSchedule sha1Next 64 m.reverse).reverse

/-- One round (R146). -/
def sha1Round (t : Nat) (wt : Word) (v : Sha1Vars) : Sha1Vars :=
  ⟨v.a.rotateLeft 5 + sha1F t v.b v.c v.d + v.e + sha1K t + wt, v.a, v.b.rotateLeft 30, v.c, v.d⟩

/-- The rounds from t on, one for each word left of the schedule. -/
def sha1Rounds : Nat → List Word → Sha1Vars → Sha1Vars
  | _, [], v => v
  | t, wt :: ws, v => sha1Rounds (t + 1) ws (sha1Round t wt v)

/-- The hash value after one more block (R146). -/
def sha1Block (h : Sha1Vars) (m : List Word) : Sha1Vars :=
  let v := sha1Rounds 0 (sha1Schedule m) h
  ⟨h.a + v.a, h.b + v.b, h.c + v.c, h.d + v.d, h.e + v.e⟩

/-- SHA1(M) (R146). -/
def sha1 (m : List Byte) : List Byte :=
  let h := (messageBlocks .sha1 32 m).foldl sha1Block sha1Init
  toBE 4 h.a.toNat ++ toBE 4 h.b.toNat ++ toBE 4 h.c.toNat ++ toBE 4 h.d.toNat ++ toBE 4 h.e.toNat

/-! ### What SHA-256 and SHA-512 share (R147, R149) -/

/-- The working variables a to h, and the hash value H[0..7]. -/
structure Sha2Vars (w : Nat) where
  a : BitVec w
  b : BitVec w
  c : BitVec w
  d : BitVec w
  e : BitVec w
  f : BitVec w
  g : BitVec w
  h : BitVec w
deriving DecidableEq, Repr

/-- H[j] + (a, .., h)[j] for each j. -/
def Sha2Vars.add {w : Nat} (x y : Sha2Vars w) : Sha2Vars w :=
  ⟨x.a + y.a, x.b + y.b, x.c + y.c, x.d + y.d, x.e + y.e, x.f + y.f, x.g + y.g, x.h + y.h⟩

/-- BEn(H[0]) || ... || BEn(H[7]). -/
def Sha2Vars.bytes {w : Nat} (n : Nat) (x : Sha2Vars w) : List Byte :=
  toBE n x.a.toNat ++ toBE n x.b.toNat ++ toBE n x.c.toNat ++ toBE n x.d.toNat ++
    (toBE n x.e.toNat ++ toBE n x.f.toNat ++ toBE n x.g.toNat ++ toBE n x.h.toNat)

/-- W_t = s1(W_{t-2}) + W_{t-7} + s0(W_{t-15}) + W_{t-16}. -/
def sha2Next {w : Nat} (s0 s1 : BitVec w → BitVec w) (ws : List (BitVec w)) : BitVec w :=
  s1 (back ws 2) + back ws 7 + s0 (back ws 15) + back ws 16

/-- One round, with Sigma0 and Sigma1 of the algorithm. -/
def sha2Round {w : Nat} (S0 S1 : BitVec w → BitVec w) (kt wt : BitVec w) (v : Sha2Vars w) : Sha2Vars w :=
  let t1 := v.h + S1 v.e + ch v.e v.f v.g + kt + wt
  let t2 := S0 v.a + maj v.a v.b v.c
  ⟨t1 + t2, v.a, v.b, v.c, v.d + t1, v.e, v.f, v.g⟩

/-- One round for each constant K_t and word W_t, in order. -/
def sha2Rounds {w : Nat} (S0 S1 : BitVec w → BitVec w) :
    List (BitVec w) → List (BitVec w) → Sha2Vars w → Sha2Vars w
  | kt :: ks, wt :: ws, v => sha2Rounds S0 S1 ks ws (sha2Round S0 S1 kt wt v)
  | _, _, v => v

/-! ### SHA-256 (R147, R148) -/

/-- Sigma0 of SHA-256. -/
def bigSigma0_256 (x : Word) : Word := x.rotateRight 2 ^^^ x.rotateRight 13 ^^^ x.rotateRight 22

/-- Sigma1 of SHA-256. -/
def bigSigma1_256 (x : Word) : Word := x.rotateRight 6 ^^^ x.rotateRight 11 ^^^ x.rotateRight 25

/-- sigma0 of SHA-256. -/
def smallSigma0_256 (x : Word) : Word := x.rotateRight 7 ^^^ x.rotateRight 18 ^^^ (x >>> 3)

/-- sigma1 of SHA-256. -/
def smallSigma1_256 (x : Word) : Word := x.rotateRight 17 ^^^ x.rotateRight 19 ^^^ (x >>> 10)

/-- H(0) of SHA-256 (R148). -/
def sha256Init : Sha2Vars 32 :=
  ⟨0x6A09E667, 0xBB67AE85, 0x3C6EF372, 0xA54FF53A, 0x510E527F, 0x9B05688C, 0x1F83D9AB, 0x5BE0CD19⟩

/-- K_0 .. K_63 of SHA-256 (R148), a row of the spec's table a line. -/
def sha256K : List Word :=
  [0x428A2F98, 0x71374491, 0xB5C0FBCF, 0xE9B5DBA5, 0x3956C25B, 0x59F111F1, 0x923F82A4, 0xAB1C5ED5] ++
  [0xD807AA98, 0x12835B01, 0x243185BE, 0x550C7DC3, 0x72BE5D74, 0x80DEB1FE, 0x9BDC06A7, 0xC19BF174] ++
  [0xE49B69C1, 0xEFBE4786, 0x0FC19DC6, 0x240CA1CC, 0x2DE92C6F, 0x4A7484AA, 0x5CB0A9DC, 0x76F988DA] ++
  [0x983E5152, 0xA831C66D, 0xB00327C8, 0xBF597FC7, 0xC6E00BF3, 0xD5A79147, 0x06CA6351, 0x14292967] ++
  [0x27B70A85, 0x2E1B2138, 0x4D2C6DFC, 0x53380D13, 0x650A7354, 0x766A0ABB, 0x81C2C92E, 0x92722C85] ++
  [0xA2BFE8A1, 0xA81A664B, 0xC24B8B70, 0xC76C51A3, 0xD192E819, 0xD6990624, 0xF40E3585, 0x106AA070] ++
  [0x19A4C116, 0x1E376C08, 0x2748774C, 0x34B0BCB5, 0x391C0CB3, 0x4ED8AA4A, 0x5B9CCA4F, 0x682E6FF3] ++
  [0x748F82EE, 0x78A5636F, 0x84C87814, 0x8CC70208, 0x90BEFFFA, 0xA4506CEB, 0xBEF9A3F7, 0xC67178F2]

/-- W_0 .. W_63 of a block. -/
def sha256Schedule (m : List Word) : List Word :=
  (extendSchedule (sha2Next smallSigma0_256 smallSigma1_256) 48 m.reverse).reverse

/-- The hash value after one more block (R147). -/
def sha256Block (h : Sha2Vars 32) (m : List Word) : Sha2Vars 32 :=
  h.add (sha2Rounds bigSigma0_256 bigSigma1_256 sha256K (sha256Schedule m) h)

/-- SHA256(M) (R147). -/
def sha256 (m : List Byte) : List Byte :=
  ((messageBlocks .sha256 32 m).foldl sha256Block sha256Init).bytes 4

/-! ### SHA-512 (R149, R151) -/

/-- Sigma0 of SHA-512. -/
def bigSigma0_512 (x : Word64) : Word64 := x.rotateRight 28 ^^^ x.rotateRight 34 ^^^ x.rotateRight 39

/-- Sigma1 of SHA-512. -/
def bigSigma1_512 (x : Word64) : Word64 := x.rotateRight 14 ^^^ x.rotateRight 18 ^^^ x.rotateRight 41

/-- sigma0 of SHA-512. -/
def smallSigma0_512 (x : Word64) : Word64 := x.rotateRight 1 ^^^ x.rotateRight 8 ^^^ (x >>> 7)

/-- sigma1 of SHA-512. -/
def smallSigma1_512 (x : Word64) : Word64 := x.rotateRight 19 ^^^ x.rotateRight 61 ^^^ (x >>> 6)

/-- H(0) of SHA-512 (R151). -/
def sha512Init : Sha2Vars 64 :=
  ⟨0x6A09E667F3BCC908, 0xBB67AE8584CAA73B, 0x3C6EF372FE94F82B, 0xA54FF53A5F1D36F1,
   0x510E527FADE682D1, 0x9B05688C2B3E6C1F, 0x1F83D9ABFB41BD6B, 0x5BE0CD19137E2179⟩

/-- K_0 .. K_79 of SHA-512 (R151), a row of the spec's table a line. -/
def sha512K : List Word64 :=
  [0x428A2F98D728AE22, 0x7137449123EF65CD, 0xB5C0FBCFEC4D3B2F, 0xE9B5DBA58189DBBC] ++
  [0x3956C25BF348B538, 0x59F111F1B605D019, 0x923F82A4AF194F9B, 0xAB1C5ED5DA6D8118] ++
  [0xD807AA98A3030242, 0x12835B0145706FBE, 0x243185BE4EE4B28C, 0x550C7DC3D5FFB4E2] ++
  [0x72BE5D74F27B896F, 0x80DEB1FE3B1696B1, 0x9BDC06A725C71235, 0xC19BF174CF692694] ++
  [0xE49B69C19EF14AD2, 0xEFBE4786384F25E3, 0x0FC19DC68B8CD5B5, 0x240CA1CC77AC9C65] ++
  [0x2DE92C6F592B0275, 0x4A7484AA6EA6E483, 0x5CB0A9DCBD41FBD4, 0x76F988DA831153B5] ++
  [0x983E5152EE66DFAB, 0xA831C66D2DB43210, 0xB00327C898FB213F, 0xBF597FC7BEEF0EE4] ++
  [0xC6E00BF33DA88FC2, 0xD5A79147930AA725, 0x06CA6351E003826F, 0x142929670A0E6E70] ++
  [0x27B70A8546D22FFC, 0x2E1B21385C26C926, 0x4D2C6DFC5AC42AED, 0x53380D139D95B3DF] ++
  [0x650A73548BAF63DE, 0x766A0ABB3C77B2A8, 0x81C2C92E47EDAEE6, 0x92722C851482353B] ++
  [0xA2BFE8A14CF10364, 0xA81A664BBC423001, 0xC24B8B70D0F89791, 0xC76C51A30654BE30] ++
  [0xD192E819D6EF5218, 0xD69906245565A910, 0xF40E35855771202A, 0x106AA07032BBD1B8] ++
  [0x19A4C116B8D2D0C8, 0x1E376C085141AB53, 0x2748774CDF8EEB99, 0x34B0BCB5E19B48A8] ++
  [0x391C0CB3C5C95A63, 0x4ED8AA4AE3418ACB, 0x5B9CCA4F7763E373, 0x682E6FF3D6B2B8A3] ++
  [0x748F82EE5DEFB2FC, 0x78A5636F43172F60, 0x84C87814A1F0AB72, 0x8CC702081A6439EC] ++
  [0x90BEFFFA23631E28, 0xA4506CEBDE82BDE9, 0xBEF9A3F7B2C67915, 0xC67178F2E372532B] ++
  [0xCA273ECEEA26619C, 0xD186B8C721C0C207, 0xEADA7DD6CDE0EB1E, 0xF57D4F7FEE6ED178] ++
  [0x06F067AA72176FBA, 0x0A637DC5A2C898A6, 0x113F9804BEF90DAE, 0x1B710B35131C471B] ++
  [0x28DB77F523047D84, 0x32CAAB7B40C72493, 0x3C9EBE0A15C9BEBC, 0x431D67C49C100D4C] ++
  [0x4CC5D4BECB3E42B6, 0x597F299CFC657E2A, 0x5FCB6FAB3AD6FAEC, 0x6C44198C4A475817]

/-- W_0 .. W_79 of a block. -/
def sha512Schedule (m : List Word64) : List Word64 :=
  (extendSchedule (sha2Next smallSigma0_512 smallSigma1_512) 64 m.reverse).reverse

/-- The hash value after one more block (R149). -/
def sha512Block (h : Sha2Vars 64) (m : List Word64) : Sha2Vars 64 :=
  h.add (sha2Rounds bigSigma0_512 bigSigma1_512 sha512K (sha512Schedule m) h)

/-- SHA512(M) (R149). -/
def sha512 (m : List Byte) : List Byte :=
  ((messageBlocks .sha512 64 m).foldl sha512Block sha512Init).bytes 8

/-! ### HMAC (R142) -/

/-- H, the hash of an algorithm. -/
def hash : Alg → List Byte → List Byte
  | .sha1, m => sha1 m
  | .sha256, m => sha256 m
  | .sha512, m => sha512 m

/-- K0: a key longer than B is replaced by its hash, and the result is zero-padded to exactly B bytes. -/
def hmacKey (alg : Alg) (k : List Byte) : List Byte :=
  let k1 := if blockLen alg < k.length then hash alg k else k
  k1 ++ zeros (blockLen alg - k1.length)

/-- HMAC_H(K, m), ipad 0x36 and opad 0x5C (R142). -/
def hmac (alg : Alg) (k m : List Byte) : List Byte :=
  let k0 := hmacKey alg k
  let inner := hash alg (xorBytes k0 (rep 0x36 (blockLen alg)) ++ m)
  hash alg (xorBytes k0 (rep 0x5C (blockLen alg)) ++ inner)

end Sys2Proof.Machine
end

