-- ==== Sys2Proof/Machine/Operands.lean ====
section
/-! DEFINITION. The registers of the window as the bus reads and writes them (spec/10_state.md R22 to R41;
spec/20_memory.md R61 to R66), and the command operands taken from them. -/

namespace Sys2Proof.Machine

/-! ### Command operands -/

/-- The NB most significant bytes of the latched KEY_DATA, most significant first (R84, R121). -/
def keyBytes (kd : Word) (nb : Nat) : List Byte := (toBE 4 kd.toNat).take nb

/-- BE8(ctr), the HMAC message (R152). -/
def counterBytes (ctr : Word64) : List Byte := toBE 8 ctr.toNat

/-! ### The register map (R22) -/

/-- The offset of a register. -/
def Reg.offset : Reg → BitVec 7
  | .id => 0x00
  | .cmd => 0x04
  | .status => 0x08
  | .ie => 0x0C
  | .keyData => 0x10
  | .keyLen => 0x14
  | .counterHi => 0x18
  | .counterLo => 0x1C
  | .trunc => 0x20
  | .toff => 0x24
  | .code => 0x28
  | .codeDigits => 0x2C
  | .digest i => BitVec.ofNat 7 (0x40 + 4 * i.val)

/-- Every register of the window. -/
def Reg.all : List Reg :=
  [.id, .cmd, .status, .ie, .keyData, .keyLen, .counterHi, .counterLo, .trunc, .toff, .code, .codeDigits] ++
    (List.finRange 16).map Reg.digest

/-- The register at an offset; `none` at an offset that is misaligned or reserved (R62). -/
def regAt (off : BitVec 7) : Option Reg := Reg.all.find? fun r => r.offset == off

/-- The register a transaction reaches; `none` where it is answered with a bus error (R62). -/
def target (off : BitVec 7) (width : Nat) : Option Reg := if width = 4 then regAt off else none

/-! ### Reads -/

/-- DIGESTi = BE(DIG[4i : 4i+4] bytes) (R38). -/
def digestWord (m : Memory) (i : Fin 16) : Word := BitVec.ofNat 32 (be (m.readBytes (4 * i.val) 4))

/-- What a read returns while BUSY = 0 (R23 to R41): write-only registers read 0 (R64). -/
def regValue (r : Reg) (s : State) : Word :=
  match r with
  | .id => Config.idValue
  | .cmd => 0
  | .status => statusWord s
  | .ie => s.ie.setWidth 32
  | .keyData => 0
  | .keyLen => s.keyLen
  | .counterHi => s.counterHi
  | .counterLo => s.counterLo
  | .trunc => s.trunc.setWidth 32
  | .toff => s.toff.setWidth 32
  | .code => s.code
  | .codeDigits => s.codeDigits.setWidth 32
  | .digest i => digestWord s.dig i

/-- The registers whose value is open while BUSY = 1 (R66). -/
def isResult : Reg → Bool
  | .id => false
  | .cmd => false
  | .status => false
  | .ie => false
  | .keyData => false
  | .keyLen => true
  | .counterHi => false
  | .counterLo => false
  | .trunc => true
  | .toff => true
  | .code => true
  | .codeDigits => true
  | .digest _ => true

/-- A read of a register by the host. While BUSY = 1 a result register returns a free value, drawn anew for each read
(R66); every other read returns the register's value. No read changes a register (R68). -/
def readReg (r : Reg) (s : State) : State :=
  if s.busy = true ∧ isResult r = true then
    { s with rdata := some (Config.busyRead s.draws), draws := s.draws + 1 }
  else { s with rdata := some (regValue r s) }

/-! ### Writes (R65); a write to CMD presents a command and is in Machine/Bus.lean -/

/-- The write-1-to-clear bits of STATUS, DONE and OVR (R25, R27, R29). -/
def writeStatus (v : Word) (s : State) : State :=
  { s with
    done := s.done && !v.getLsbD 1
    ovr := s.ovr && !v.getLsbD 3 }

/-- IE <- v & 0x7 (R32). -/
def writeIe (v : Word) (s : State) : State := { s with ie := v.setWidth 3 }

/-- A write to an operand register: dropped with OVR set while BUSY = 1, else performed (R65). -/
def writeOperand (perform : State → State) (s : State) : State := if s.busy then drop s else perform s

/-- DIG[4i : 4i+4] bytes <- BE4(v) (R38). -/
def writeDigest (i : Fin 16) (v : Word) (s : State) : State :=
  { s with dig := s.dig.writeBytes (4 * i.val) (toBE 4 v.toNat) }

/-- A write of v to a register other than CMD (R65): a read-only register ignores it (R63). -/
def writeReg (r : Reg) (v : Word) (s : State) : State :=
  match r with
  | .id => s
  | .cmd => s
  | .status => writeStatus v s
  | .ie => writeIe v s
  | .keyData => writeOperand (fun t => { t with keyData := v }) s
  | .keyLen => s
  | .counterHi => writeOperand (fun t => { t with counterHi := v }) s
  | .counterLo => writeOperand (fun t => { t with counterLo := v }) s
  | .trunc => writeOperand (fun t => { t with trunc := v.setWidth 31 }) s
  | .toff => s
  | .code => s
  | .codeDigits => s
  | .digest i => writeOperand (writeDigest i v) s

end Sys2Proof.Machine
end

