-- ==== Sys2Proof/Machine/HmacUnit.lean ====
section
/-! DEFINITION. The HMAC command (spec/42_hmac.md R150, R152). -/

namespace Sys2Proof.Machine

/-- The HMAC of the latched counter under the key and its algorithm (R150). -/
def hmacOf (p : Pending) (s : State) : List Byte := hmac s.kalg s.key (counterBytes p.ctr)

/-- DIG[0 : L] bytes <- D; DIG[L : 64] bytes <- zeros(64 - L) (R150). -/
def storeDigest (d : List Byte) (s : State) : State :=
  { s with dig := s.dig.writeBytes 0 (d ++ zeros (digLen - d.length)) }

/-- HMAC (R150). -/
def execHmac (s : State) : Host.Outcome State Fault Refusal :=
  command .hmac (fun p t => .next (storeDigest (hmacOf p t) t)) s

end Sys2Proof.Machine
end

