-- ==== Sys2Proof/Machine/Key.lean ====
section
/-! DEFINITION. The key loading commands (spec/41_key.md R120 to R124). -/

namespace Sys2Proof.Machine

/-- The completion effect of KEY_BEGIN (R120): a new empty key bound to the algorithm. -/
def beginKey (alg : Alg) (s : State) : State :=
  { s with key := [], keyLen := 0, kalg := alg, kstate := .loading }

/-- The completion effect of KEY_APPEND (R121). -/
def appendKey (nb : Nat) (p : Pending) (s : State) : State :=
  { s with key := s.key ++ keyBytes p.kd nb, keyLen := s.keyLen + BitVec.ofNat 32 nb }

/-- The completion effect of KEY_END (R122). -/
def endKey (s : State) : State := { s with kstate := .ready }

/-- KEY_BEGIN alg (R120). -/
def execKeyBegin (alg : Alg) (s : State) : Host.Outcome State Fault Refusal :=
  command (.keyBegin alg) (fun _ t => .next (beginKey alg t)) s

/-- KEY_APPEND nb (R121). -/
def execKeyAppend (nb : Nat) (s : State) : Host.Outcome State Fault Refusal :=
  command (.keyAppend nb) (fun p t => .next (appendKey nb p t)) s

/-- KEY_END (R122). -/
def execKeyEnd (s : State) : Host.Outcome State Fault Refusal :=
  command .keyEnd (fun _ t => .next (endKey t)) s

/-- KEY_ZERO (R123). -/
def execKeyZero (s : State) : Host.Outcome State Fault Refusal :=
  command .keyZero (fun _ t => .next (discardKey t)) s

end Sys2Proof.Machine
end

