-- ==== Sys2Proof/Machine/Truncate.lean ====
section
/-! DEFINITION. The dynamic truncation unit (spec/43_truncate.md R200 to R202). -/

namespace Sys2Proof.Machine

/-- off = D[L - 1] & 0x0F (R201). -/
def dtOffset (len : Nat) (d : List Byte) : BitVec 4 := (d.getD (len - 1) 0).setWidth 4

/-- BE(D[off : off + 4] bytes) & 0x7FFFFFFF (R201). -/
def dtValue (off : Nat) (d : List Byte) : BitVec 31 :=
  (BitVec.ofNat 32 (be ((d.drop off).take 4)) &&& 0x7FFFFFFF).setWidth 31

/-- DT_L (R201): offset and value, or `none` where the window would leave the digest (never, R202). -/
def dt (len : Nat) (d : List Byte) : Option (BitVec 4 × BitVec 31) :=
  let off := dtOffset len d
  if len < off.toNat + 4 then none else some (off, dtValue off.toNat d)

/-- TOFF and TRUNC written from a digest of an algorithm's length; leaving the digest is the model's fault (R312). -/
def truncateDigest (alg : Alg) (d : List Byte) (s : State) : Host.Outcome State Fault Refusal :=
  match dt (digestLen alg) d with
  | none => .fault .internalInvariant
  | some (off, t) => .next { s with toff := off, trunc := t }

/-- TRUNC alg (R200): truncation of DIG[0 : L] bytes, L by the command's own ALG. -/
def execTrunc (alg : Alg) (s : State) : Host.Outcome State Fault Refusal :=
  command (.trunc alg) (fun _ t => truncateDigest alg (t.dig.readBytes 0 (digestLen alg)) t) s

end Sys2Proof.Machine
end

