-- ==== Sys2Proof/Machine/Reduce.lean ====
section
/-! DEFINITION. The decimal reduction unit and the full derivation (spec/44_reduce.md R220, R221, R240). -/

namespace Sys2Proof.Machine

/-- RED(t, N) = t mod 10^N, the exact remainder (R221). -/
def red (t : BitVec 31) (n : Nat) : Nat := t.toNat % 10 ^ n

/-- CODE and CODE_DIGITS written from a truncated value (R220). -/
def reduceTo (t : BitVec 31) (n : Nat) (s : State) : State :=
  { s with code := BitVec.ofNat 32 (red t n), codeDigits := BitVec.ofNat 8 n }

/-- REDUCE n (R220). -/
def execReduce (n : Nat) (s : State) : Host.Outcome State Fault Refusal :=
  command (.reduce n) (fun _ t => .next (reduceTo t.trunc n t)) s

/-- The completion effect of DERIVE (R240): HMAC into DIG, truncation of the same digest, reduction of its value. -/
def deriveEffect (n : Nat) (p : Pending) (s : State) : Host.Outcome State Fault Refusal :=
  match truncateDigest s.kalg (hmacOf p s) (storeDigest (hmacOf p s) s) with
  | .next t => .next (reduceTo t.trunc n t)
  | .fault r => .fault r
  | .refused r => .refused r

/-- DERIVE n (R240). -/
def execDerive (n : Nat) (s : State) : Host.Outcome State Fault Refusal :=
  command (.derive n) (deriveEffect n) s

end Sys2Proof.Machine
end

