-- ==== Sys2Proof/Machine/Dispatch.lean ====
section
/-! DEFINITION. The meaning of every command: one arm for each row of spec/opcode_table.json. -/

namespace Sys2Proof.Machine

/-- What the command unit does with a command in a state (Machine/Ops.lean, `command`): presented while BUSY = 0,
completed while BUSY = 1. -/
def exec (i : Instr) (s : State) : Host.Outcome State Fault Refusal :=
  match i with
  | .nop => Sys2Proof.Machine.execNop s
  | .sreset => Sys2Proof.Machine.execSreset s
  | .clrErr => Sys2Proof.Machine.execClrErr s
  | .keyBegin alg => Sys2Proof.Machine.execKeyBegin alg s
  | .keyAppend nb => Sys2Proof.Machine.execKeyAppend nb s
  | .keyEnd => Sys2Proof.Machine.execKeyEnd s
  | .keyZero => Sys2Proof.Machine.execKeyZero s
  | .hmac => Sys2Proof.Machine.execHmac s
  | .trunc alg => Sys2Proof.Machine.execTrunc alg s
  | .reduce n => Sys2Proof.Machine.execReduce n s
  | .derive n => Sys2Proof.Machine.execDerive n s

end Sys2Proof.Machine
end

