-- ==== Sys2Proof/Machine/Bus.lean ====
section
/-! DEFINITION. The host's transactions and the engine's step (spec/20_memory.md R60 to R70; spec/60_exceptions.md
R300, R306; spec/70_reset_and_hazards.md R340, R350). Each takes a state whose event has already been taken off. -/

namespace Sys2Proof.Machine

/-- The word of SRESET, performed in every state (R300, R305). -/
def sresetWord : Word := 0x00000001#32

/-- The word of CLR_ERR, decoded also while ERR = 1 (R300, R303). -/
def clrErrWord : Word := 0x00000002#32

/-- A CMD write of word w (R300): SRESET performed; else dropped while BUSY = 1; else discarded while ERR = 1; else
decoded, and rejected or given to the command unit. -/
def present (w : Word) (s : State) : Host.Outcome State Fault Refusal :=
  if w = sresetWord then exec .sreset s
  else if s.busy then .next (drop s)
  else if s.err = true ∧ w ≠ clrErrWord then .next (discard s)
  else
    match decode w with
    | .error e => .next (raise e s)
    | .ok i => exec i s

/-- The engine's step (R306): while BUSY = 1 the pending command completes; while BUSY = 0 no step is enabled and
nothing changes (log entry 2). -/
def engineStep (s : State) : Host.Outcome State Fault Refusal :=
  if s.busy then
    match s.pending with
    | some p => exec p.cmd s
    | none => .next s
  else .next s

/-- A host read (R61, R62). -/
def hostRead (off : BitVec 7) (width : Nat) (s : State) : Host.Outcome State Fault Refusal :=
  if s.resetLine then .fault .accessDuringReset
  else
    match target off width with
    | none => .fault .busError
    | some r => .next (readReg r s)

/-- A host write (R61, R62, R65). -/
def hostWrite (off : BitVec 7) (width : Nat) (v : Word) (s : State) : Host.Outcome State Fault Refusal :=
  if s.resetLine then .fault .accessDuringReset
  else
    match target off width with
    | none => .fault .busError
    | some r => if r = .cmd then present v s else .next (writeReg r v s)

/-- One event of the global order (R70). -/
def runEvent (e : Event) (s : State) : Host.Outcome State Fault Refusal :=
  match e with
  | .read off width => hostRead off width s
  | .write off width v => hostWrite off width v s
  | .engine => engineStep s
  | .resetAssert => .next (hardReset true s)
  | .resetRelease => .next (hardReset false s)

/-- The next step: the next event, and when none is left the engine's, which completes a pending command (R350). -/
def nextStep (s : State) : Host.Outcome State Fault Refusal :=
  match s.events with
  | [] => engineStep s
  | e :: rest => runEvent e { s with events := rest }

/-! ### Events as the host makes them -/

/-- Whether an address lies in the register window (R60); what answers elsewhere is the platform's. -/
def inWindow (addr : Nat) : Bool := Config.base ≤ addr && addr < Config.base + Config.windowSize

/-- MemRead(addr, width), where it is a transaction of this block (R60, R61). -/
def memRead (addr width : Nat) : Option Event :=
  if inWindow addr then some (.read (BitVec.ofNat 7 (addr - Config.base)) width) else none

/-- MemWrite(addr, width, v), where it is a transaction of this block (R60, R61). -/
def memWrite (addr width : Nat) (v : Word) : Option Event :=
  if inWindow addr then some (.write (BitVec.ofNat 7 (addr - Config.base)) width v) else none

/-- `RD <reg>` (R91). -/
def rd (r : Reg) : Event := .read r.offset 4

/-- `WR <reg>, v` (R91). -/
def wr (r : Reg) (v : Word) : Event := .write r.offset 4 v

/-- A command as shorthand for `WR CMD, <its word>` (R91). -/
def issue (i : Instr) : Event := wr .cmd (encode i)

end Sys2Proof.Machine
end

