-- ==== Sys2Proof/Machine/Step.lean ====
section
/-! DEFINITION. One step of the machine, and how an instruction word is placed for the next one. -/

namespace Sys2Proof.Machine

/-- One step: the next event of the global order (R70), or the engine's step when none is left (R350). -/
def step (s : State) : Host.Outcome State Fault Refusal := nextStep s

/-- `s` with the host's next transaction writing the instruction's word to CMD, which is where OTPCORE takes every
instruction from (R21, R24, R300; log entry 4). -/
def State.withFetchWord (s : State) (nbits w : Nat) : State :=
  { s with events := wr .cmd (BitVec.ofNat 32 (w % 2 ^ nbits)) :: s.events }

end Sys2Proof.Machine
end

