-- ==== Sys2Proof/Machine/Pseudo.lean ====
section
/-! DEFINITION. The pseudo-instructions (spec/30_encoding.md R92): host-side sequences, expanded to events. `WAIT` reads
STATUS until BUSY reads 0, and how often it reads depends on when the engine completes (R350). So an expansion takes the
number of reads before the completion for each of its WAITs on its own: `polls j` for the j-th, counted from 0. -/

namespace Sys2Proof.Machine

/-- WAIT: `polls` reads of STATUS that find BUSY = 1, the completion, and the read that finds BUSY = 0 (R92, R306). -/
def wait (polls : Nat) : List Event := List.replicate polls (rd .status) ++ [.engine, rd .status]

/-- A command and its WAIT. -/
def issueAndWait (polls : Nat) (i : Instr) : List Event := issue i :: wait polls

/-- SETCTR c (R92). -/
def setCtr (c : Word64) : List Event :=
  [wr .counterHi (c.extractLsb' 32 32), wr .counterLo (c.extractLsb' 0 32)]

/-- One group of LOADKEY: KEY_DATA written with up to four bytes, zero-filled, and KEY_APPEND of their number (R92). -/
def loadGroup (polls : Nat) (b : List Byte) : List Event :=
  wr .keyData (BitVec.ofNat 32 (be (b ++ zeros (4 - b.length)))) :: issueAndWait polls (.keyAppend b.length)

/-- The groups of four bytes of LOADKEY, and the last one of k mod 4 bytes if that is not 0 (R92); `j` is the number
of the first one's WAIT. -/
def loadGroups (polls : Nat → Nat) (j : Nat) : List Byte → List Event
  | b0 :: b1 :: b2 :: b3 :: rest => loadGroup (polls j) [b0, b1, b2, b3] ++ loadGroups polls (j + 1) rest
  | [] => []
  | b => loadGroup (polls j) b

/-- How many KEY_APPENDs, each with a WAIT, LOADKEY of k bytes makes: one for every four bytes begun. -/
def groupCount (k : Nat) : Nat := (k + 3) / 4

/-- LOADKEY alg, b (R92): the WAIT of KEY_BEGIN is number 0, those of the groups follow, and that of KEY_END is last. -/
def loadKey (polls : Nat → Nat) (alg : Alg) (b : List Byte) : List Event :=
  issueAndWait (polls 0) (.keyBegin alg) ++
    (loadGroups polls 1 b ++ issueAndWait (polls (1 + groupCount b.length)) .keyEnd)

/-- OTP alg, key, c, n (R92): the WAIT of DERIVE follows those of LOADKEY. -/
def otp (polls : Nat → Nat) (alg : Alg) (key : List Byte) (c : Word64) (n : Nat) : List Event :=
  loadKey polls alg key ++
    (setCtr c ++ (issueAndWait (polls (2 + groupCount key.length)) (.derive n) ++ [rd .status, rd .code]))

end Sys2Proof.Machine
end

