-- ==== Sys2Proof/Safety.lean ====
section
/-! DEFINITION. What a claim may ask of a state and of a run: the invariant of spec/10_state.md R45 with what it needs
to be kept by every step, the outcomes that count as safe, and the transactions a run may hold. -/

namespace Sys2Proof.Machine

/-- The engine's pending command is one that could be accepted, its latched operands are those still in the registers
(R301, R354), and while ERR = 1 it is CLR_ERR (R303). -/
structure PendingOk (p : Pending) (s : State) : Prop where
  wf : p.cmd.wf = true
  notSreset : p.cmd ≠ .sreset
  kd : p.kd = s.keyData
  ctr : p.ctr = counter s
  checked : stateCheck p.cmd s = none
  errOnly : s.err = true → p.cmd = .clrErr

/-- The invariant: the items of R45 that the types of State do not already say, R26, R27 and R30, and the reset input's
hold on the state (R340). The items on TRUNC, TOFF, KSTATE and KALG hold by the types (log entry 11). -/
structure Invariant (s : State) : Prop where
  busy : s.busy = s.pending.isSome
  busyDone : s.busy = true → s.done = false
  keyLen : s.keyLen.toNat = s.key.length
  noKey : s.kstate = .none → s.key = [] ∧ s.kalg = .sha1
  code : s.code.toNat < 10 ^ s.codeDigits.toNat
  codeTop : s.code.toNat < 2 ^ 31
  err : s.err = s.errcode.isSome
  errKind : s.errcode ≠ some .eInternal
  dig : s.dig.wf = true
  pending : ∀ p, s.pending = some p → PendingOk p s
  inReset : s.resetLine = true → s = hardReset true s

/-- An outcome a run may have: a next state, or the fault of a host transaction. The model's own assertion (R312) and a
refusal are not among them. -/
def SafeOutcome (o : Host.Outcome State Fault Refusal) : Prop :=
  match o with
  | .next _ => True
  | .fault r => r ≠ .internalInvariant
  | .refused _ => False

/-- A host read of 32 bits at an offset returns the value `v` gives, in every state `ok` admits, and changes nothing
else: the model's own `rdata` holds the data and the event is gone. -/
def ReadReturns (off : BitVec 7) (ok : State → Prop) (v : State → Word) : Prop :=
  ∀ (s : State) (rest : List Event), s.resetLine = false → s.events = .read off 4 :: rest → ok s →
    step s = .next { s with events := rest, rdata := some (v s) }

/-- A host write of 32 bits at an offset makes of the state what `f` gives, in every state `ok` admits. -/
def WriteMakes (off : BitVec 7) (ok : State → Prop) (f : Word → State → State) : Prop :=
  ∀ (s : State) (v : Word) (rest : List Event), s.resetLine = false → s.events = .write off 4 v :: rest → ok s →
    step s = .next (f v { s with events := rest })

/-- The event is a 32-bit transaction at the offset of a register, not a CMD write of the SRESET word: a transaction
that neither faults nor aborts a command (R62, R350). -/
def plainTransaction (e : Event) : Bool :=
  match e with
  | .read off width => (target off width).isSome
  | .write off width v =>
    match target off width with
    | none => false
    | some r => !(r == .cmd && v == sresetWord)
  | .engine => false
  | .resetAssert => false
  | .resetRelease => false

end Sys2Proof.Machine
end

