-- ==== Sys2Proof/Certificates/Slice0/Obligations.lean ====
section
/-! DEFINITION. The statements about OTPCORE, for the provers. Each cites the rules of spec/ it formalises. A CMD write
is the event `.write 0x04 4 w`, since CMD is at offset 0x04 (R22). -/

open Sys2Proof Sys2Proof.Machine

/-! ### Decoding -/

/-- R87, R91: words written out from the encodings, one of each command and some at the edges of their fields. -/
def Obligations.WordsDecodeToTheirCommands : Prop :=
  decode 0x00000000#32 = .ok .nop ∧ decode 0x00000001#32 = .ok .sreset ∧ decode 0x00000002#32 = .ok .clrErr ∧
  decode 0x00000010#32 = .ok (.keyBegin .sha1) ∧ decode 0x00000210#32 = .ok (.keyBegin .sha512) ∧
  decode 0x00000011#32 = .ok (.keyAppend 1) ∧ decode 0x00000C11#32 = .ok (.keyAppend 4) ∧
  decode 0x00000012#32 = .ok .keyEnd ∧ decode 0x00000013#32 = .ok .keyZero ∧ decode 0x00000020#32 = .ok .hmac ∧
  decode 0x00000121#32 = .ok (.trunc .sha256) ∧ decode 0x00FF0022#32 = .ok (.reduce 255) ∧
  decode 0x00060023#32 = .ok (.derive 6)

/-- R87, R91: the word of a well-formed command decodes to the command, every operand at every value. -/
def Obligations.DecodeOfEncodeIsTheCommand : Prop :=
  ∀ i : Instr, i.wf = true → decode (encode i) = .ok i

/-- R80 to R86: a word that decodes is the word of the command it decodes to, so no bit of it is dropped. -/
def Obligations.EncodeOfDecodeIsTheWord : Prop :=
  ∀ (w : Word) (i : Instr), decode w = .ok i → i.wf = true ∧ encode i = w

/-- R90: which words are rejected with which error. -/
def Obligations.DecodeErrorsFollowThePriority : Prop :=
  ∀ w : Word,
    (decode w = .error .eOpc ↔ ∀ op : Op, op.opc ≠ w.extractLsb' 0 8) ∧
    (decode w = .error .eRsvd ↔ ∃ op : Op, op.opc = w.extractLsb' 0 8 ∧ w &&& op.mask ≠ op.bits) ∧
    (decode w = .error .eAlg ↔
      ∃ op : Op, (op = .keyBegin ∨ op = .trunc) ∧ w &&& op.mask = op.bits ∧ w.extractLsb' 8 2 = 0b11#2) ∧
    (decode w = .error .eDigits ↔
      ∃ op : Op, (op = .reduce ∨ op = .derive) ∧ w &&& op.mask = op.bits ∧ w.extractLsb' 16 8 = 0#8) ∧
    (∀ e, decode w = .error e → e = .eOpc ∨ e = .eRsvd ∨ e = .eAlg ∨ e = .eDigits)

/-- R88: the full list of the words that decode, each with its command, and the four words a field value rejects. -/
def Obligations.ExecutingWordsAreTheList : Prop :=
  (∀ (w : Word) (i : Instr), decode w = .ok i ↔
    (w, i) ∈ [(0x00000000#32, Instr.nop), (0x00000001#32, .sreset), (0x00000002#32, .clrErr),
      (0x00000010#32, .keyBegin .sha1), (0x00000110#32, .keyBegin .sha256), (0x00000210#32, .keyBegin .sha512),
      (0x00000011#32, .keyAppend 1), (0x00000411#32, .keyAppend 2), (0x00000811#32, .keyAppend 3),
      (0x00000C11#32, .keyAppend 4), (0x00000012#32, .keyEnd), (0x00000013#32, .keyZero), (0x00000020#32, .hmac),
      (0x00000021#32, .trunc .sha1), (0x00000121#32, .trunc .sha256), (0x00000221#32, .trunc .sha512)] ∨
    ∃ n, 1 ≤ n ∧ n ≤ 255 ∧
      ((w = 0x00#8 ++ BitVec.ofNat 8 n ++ 0x0022#16 ∧ i = .reduce n) ∨
        (w = 0x00#8 ++ BitVec.ofNat 8 n ++ 0x0023#16 ∧ i = .derive n))) ∧
  decode 0x00000310#32 = .error .eAlg ∧ decode 0x00000321#32 = .error .eAlg ∧
  decode 0x00000022#32 = .error .eDigits ∧ decode 0x00000023#32 = .error .eDigits

/-! ### Reset -/

/-- R44, R23: every piece of state after reset, and what ID and IRQ are. -/
def Obligations.ResetValuesAreTheSpecs : Prop :=
  statusWord State.reset = 0 ∧ State.reset.busy = false ∧ State.reset.done = false ∧ State.reset.err = false ∧
  State.reset.ovr = false ∧ State.reset.kstate = .none ∧ State.reset.kalg.code = 0b00#2 ∧
  State.reset.errcode = none ∧ State.reset.ie = 0 ∧ State.reset.keyData = 0 ∧ State.reset.key = [] ∧
  State.reset.keyLen = 0 ∧ State.reset.counterHi = 0 ∧ State.reset.counterLo = 0 ∧ State.reset.trunc = 0 ∧
  State.reset.toff = 0 ∧ State.reset.code = 0 ∧ State.reset.codeDigits = 0 ∧ State.reset.pending = none ∧
  (∀ i, i < 64 → State.reset.dig.read i = 0) ∧ regValue .id State.reset = 0x4F545043#32 ∧ irq State.reset = false

/-- R340, R342: hardware reset, from every state, gives the reset values; that its edges are events, and that the
model's own fields go on, is the model's choice (log entries 1 and 7). -/
def Obligations.HardwareResetFromEveryState : Prop :=
  (∀ (s : State) (rest : List Event), s.events = .resetAssert :: rest →
    step s = .next { State.reset with
      resetLine := true, events := rest, rdata := s.rdata, draws := s.draws }) ∧
  (∀ (s : State) (rest : List Event), s.events = .resetRelease :: rest →
    step s = .next { State.reset with
      resetLine := false, events := rest, rdata := s.rdata, draws := s.draws })

/-- R305, R101, R342: the SRESET word is performed in every state, at the CMD write: every piece of state takes its
reset value, so no pending command is left, DONE is set and STATUS reads 0x00000002 with IRQ = 0. Another word with
OPC = 0x01 is no SRESET: it is dropped while BUSY = 1, discarded while ERR = 1, and otherwise rejected with E_RSVD. -/
def Obligations.SresetIsPerformedInEveryState : Prop :=
  (∀ s : State, exec .sreset s = .next { State.reset with
    done := true, resetLine := s.resetLine, events := s.events, rdata := s.rdata, draws := s.draws }) ∧
  (∀ (s : State) (rest : List Event), s.resetLine = false → s.events = .write 0x04#7 4 0x00000001#32 :: rest →
    step s = exec .sreset { s with events := rest }) ∧
  (∀ s t : State, exec .sreset s = .next t → statusWord t = 0x00000002#32 ∧ irq t = false) ∧
  (∀ (s : State) (w : Word) (rest : List Event), s.resetLine = false → s.events = .write 0x04#7 4 w :: rest →
    w.extractLsb' 0 8 = 0x01#8 → w ≠ 0x00000001#32 →
    step s = .next (if s.busy then { s with events := rest, ovr := true }
      else if s.err then { s with events := rest, done := true }
      else { s with events := rest, err := true, errcode := some .eRsvd, done := true }))

/-! ### A step runs the decoded command -/

/-- R24, R300, R306: a CMD write of a word that decodes to a command, where the word is decoded at all, is `exec` of the
command on the state without the event; the engine's step is `exec` of the pending command. The schedule of events, and
that the engine steps when none is left, are the model's choice (log entries 1 and 2). -/
def Obligations.StepRunsTheDecodedInstruction : Prop :=
  (∀ (s : State) (w : Word) (i : Instr) (rest : List Event), s.resetLine = false →
    s.events = .write 0x04#7 4 w :: rest → decode w = .ok i →
    i = .sreset ∨ (s.busy = false ∧ (s.err = true → i = .clrErr)) →
    step s = exec i { s with events := rest }) ∧
  (∀ (s : State) (p : Pending) (rest : List Event), s.events = .engine :: rest → s.busy = true →
    s.pending = some p → step s = exec p.cmd { s with events := rest }) ∧
  (∀ (s : State) (p : Pending), s.events = [] → s.busy = true → s.pending = some p → step s = exec p.cmd s)

/-- The word placed by `withFetchWord` is the next one to run (log entry 4). -/
def Obligations.PlacedWordRunsNext : Prop :=
  ∀ (s : State) (w : Nat) (i : Instr), s.resetLine = false → decodeTableWord 32 w = some i →
    i = .sreset ∨ (s.busy = false ∧ (s.err = true → i = .clrErr)) →
    step (s.withFetchWord 32 w) = exec i s

/-! ### Presenting a command -/

/-- R301: a presented command that is not SRESET and passes the checks of R300 and R311 is accepted: BUSY set, DONE
cleared, the operands latched, and nothing else changed. -/
def Obligations.AcceptanceLatchesTheOperands : Prop :=
  ∀ (i : Instr) (s : State), i ≠ .sreset → s.busy = false → (s.err = true → i = .clrErr) →
    ((∃ nb, i = .keyAppend nb) ∨ i = .keyEnd → s.kstate = .loading) →
    (i = .hmac ∨ (∃ n, i = .derive n) → s.kstate = .ready) →
    (∀ nb, i = .keyAppend nb → s.keyLen.toNat + nb ≤ 2 ^ 32 - 1) →
    exec i s = .next { s with
      busy := true, done := false,
      pending := some ⟨i, s.keyData, BitVec.ofNat 64 (s.counterHi.toNat * 2 ^ 32 + s.counterLo.toNat)⟩ }

/-- R304: while BUSY = 1 a CMD write of any word but SRESET's is dropped: OVR set and nothing else changed. -/
def Obligations.CommandWhileBusyIsDropped : Prop :=
  ∀ (s : State) (w : Word) (rest : List Event), s.resetLine = false → s.events = .write 0x04#7 4 w :: rest →
    s.busy = true → w ≠ 0x00000001#32 → step s = .next { s with events := rest, ovr := true }

/-- R303: while ERR = 1 a CMD write of any word but SRESET's and CLR_ERR's is discarded: DONE set, nothing else. -/
def Obligations.CommandWhileErrIsDiscarded : Prop :=
  ∀ (s : State) (w : Word) (rest : List Event), s.resetLine = false → s.events = .write 0x04#7 4 w :: rest →
    s.busy = false → s.err = true → w ≠ 0x00000001#32 → w ≠ 0x00000002#32 →
    step s = .next { s with events := rest, done := true }

/-- R302, R307: a word that does not decode is rejected at the write: ERR, ERRCODE and DONE, and nothing else. -/
def Obligations.UndecodedWordIsRejectedAtTheWrite : Prop :=
  ∀ (s : State) (w : Word) (e : ErrCode) (rest : List Event), s.resetLine = false →
    s.events = .write 0x04#7 4 w :: rest → s.busy = false → s.err = false → decode w = .error e →
    step s = .next { s with events := rest, err := true, errcode := some e, done := true }

/-- R310, R311, R302: KEY_APPEND and KEY_END out of sequence are rejected with E_SEQ, code 5. -/
def Obligations.KeyCommandOutOfSequenceIsRejected : Prop :=
  ∀ (i : Instr) (s : State), (∃ nb, i = .keyAppend nb) ∨ i = .keyEnd → s.busy = false → s.err = false →
    s.kstate ≠ .loading →
    exec i s = .next { s with err := true, errcode := some .eSeq, done := true }

/-- R310, R311, R302: HMAC and DERIVE with no complete key are rejected with E_NOKEY. -/
def Obligations.DerivationWithoutAKeyIsRejected : Prop :=
  ∀ (i : Instr) (s : State), i = .hmac ∨ (∃ n, i = .derive n) → s.busy = false → s.err = false →
    s.kstate ≠ .ready →
    exec i s = .next { s with err := true, errcode := some .eNoKey, done := true }

/-- R121, R302: a KEY_APPEND past 2^32 - 1 bytes is rejected with E_KEYLEN and the key is discarded. -/
def Obligations.OverlongKeyIsDiscarded : Prop :=
  ∀ (nb : Nat) (s : State), s.busy = false → s.err = false → s.kstate = .loading →
    s.keyLen.toNat + nb > 2 ^ 32 - 1 →
    exec (.keyAppend nb) s = .next { s with
      err := true, errcode := some .eKeyLen, done := true, key := [], keyLen := 0, kstate := .none, kalg := .sha1 }

/-! ### Completion of each command (R306), with its frame: every field not named is unchanged -/

/-- R100, R102, R306: NOP completes with no effect; CLR_ERR clears ERR, ERRCODE and OVR. -/
def Obligations.ControlCommandsComplete : Prop :=
  ∀ (s : State) (p : Pending), s.busy = true → s.pending = some p →
    (p.cmd = .nop → exec .nop s = .next { s with busy := false, done := true, pending := none }) ∧
    (p.cmd = .clrErr → exec .clrErr s = .next { s with
      busy := false, done := true, pending := none, err := false, errcode := none, ovr := false })

/-- R120, R306: KEY_BEGIN empties the store, binds the algorithm and sets LOADING. -/
def Obligations.KeyBeginCompletes : Prop :=
  ∀ (a : Alg) (s : State) (p : Pending), s.busy = true → s.pending = some p → p.cmd = .keyBegin a →
    exec (.keyBegin a) s = .next { s with
      busy := false, done := true, pending := none, key := [], keyLen := 0, kalg := a, kstate := .loading }

/-- R121, R306: KEY_APPEND appends the NB most significant bytes of the latched KEY_DATA, most significant first. -/
def Obligations.KeyAppendCompletes : Prop :=
  ∀ (nb : Nat) (s : State) (p : Pending), s.busy = true → s.pending = some p → p.cmd = .keyAppend nb →
    exec (.keyAppend nb) s = .next { s with
      busy := false, done := true, pending := none,
      key := s.key ++ [p.kd.extractLsb' 24 8, p.kd.extractLsb' 16 8, p.kd.extractLsb' 8 8,
        p.kd.extractLsb' 0 8].take nb,
      keyLen := s.keyLen + BitVec.ofNat 32 nb }

/-- R122, R123, R306: KEY_END makes the key READY; KEY_ZERO erases it. -/
def Obligations.KeyEndAndKeyZeroComplete : Prop :=
  ∀ (s : State) (p : Pending), s.busy = true → s.pending = some p →
    (p.cmd = .keyEnd → exec .keyEnd s = .next { s with
      busy := false, done := true, pending := none, kstate := .ready }) ∧
    (p.cmd = .keyZero → exec .keyZero s = .next { s with
      busy := false, done := true, pending := none, key := [], keyLen := 0, kalg := .sha1, kstate := .none })

/-- R150, R306: HMAC writes the HMAC of the eight big-endian counter bytes under the key to DIG[0 : L] and zero to
DIG[L : 64]; every field but DIG, BUSY, DONE and the pending command is unchanged. -/
def Obligations.HmacCompletes : Prop :=
  ∀ (s : State) (p : Pending), s.busy = true → s.pending = some p → p.cmd = .hmac → s.dig.wf = true →
    ∃ m : Memory,
      exec .hmac s = .next { s with busy := false, done := true, pending := none, dig := m } ∧
      (∀ j, j < digestLen s.kalg → m.read j = (hmac s.kalg s.key (toBE 8 p.ctr.toNat)).getD j 0) ∧
      (∀ j, digestLen s.kalg ≤ j → j < 64 → m.read j = 0) ∧ (∀ j, 64 ≤ j → m.read j = s.dig.read j)

/-- R200, R201, R306: TRUNC reads DIG[0 : L] of its own algorithm: the offset is the low nibble of byte L - 1, the value
the four bytes at the offset, the first most significant, with the top bit cleared. -/
def Obligations.TruncCompletes : Prop :=
  ∀ (a : Alg) (s : State) (p : Pending), s.busy = true → s.pending = some p → p.cmd = .trunc a →
    let off := (s.dig.read (digestLen a - 1)).toNat % 16
    exec (.trunc a) s = .next { s with
      busy := false, done := true, pending := none,
      toff := BitVec.ofNat 4 off,
      trunc := (s.dig.read off ++ s.dig.read (off + 1) ++ s.dig.read (off + 2) ++ s.dig.read (off + 3)).setWidth 31 }

/-- R220, R221, R306: REDUCE writes the exact remainder of TRUNC by 10^N, and N. -/
def Obligations.ReduceCompletes : Prop :=
  ∀ (n : Nat) (s : State) (p : Pending), s.busy = true → s.pending = some p → p.cmd = .reduce n →
    ∃ c : Word, exec (.reduce n) s = .next { s with
        busy := false, done := true, pending := none, code := c, codeDigits := BitVec.ofNat 8 n } ∧
      c.toNat = s.trunc.toNat % 10 ^ n

/-- R240, R306: DERIVE writes DIG, TOFF, TRUNC, CODE and CODE_DIGITS from one digest, in one step. -/
def Obligations.DeriveCompletes : Prop :=
  ∀ (n : Nat) (s : State) (p : Pending), s.busy = true → s.pending = some p → p.cmd = .derive n → s.dig.wf = true →
    let d := hmac s.kalg s.key (toBE 8 p.ctr.toNat)
    let off := (d.getD (digestLen s.kalg - 1) 0).toNat % 16
    let t : BitVec 31 := (d.getD off 0 ++ d.getD (off + 1) 0 ++ d.getD (off + 2) 0 ++ d.getD (off + 3) 0).setWidth 31
    ∃ (m : Memory) (c : Word),
      exec (.derive n) s = .next { s with
        busy := false, done := true, pending := none, dig := m, toff := BitVec.ofNat 4 off, trunc := t,
        code := c, codeDigits := BitVec.ofNat 8 n } ∧
      c.toNat = t.toNat % 10 ^ n ∧
      (∀ j, j < digestLen s.kalg → m.read j = d.getD j 0) ∧
      (∀ j, digestLen s.kalg ≤ j → j < 64 → m.read j = 0) ∧ (∀ j, 64 ≤ j → m.read j = s.dig.read j)

/-- R240 (corner case): what DERIVE N leaves is what HMAC, TRUNC with the key's algorithm and REDUCE N in sequence
leave, each written to CMD and completed by the engine, as the model schedules it (log entry 1). -/
def Obligations.DeriveIsHmacTruncReduceInSequence : Prop :=
  ∀ (s : State) (n : Nat), s.busy = false → s.err = false → s.resetLine = false → s.kstate = .ready →
    s.dig.wf = true → 1 ≤ n → n ≤ 255 →
    ∃ t : State,
      Host.Core.run core 2 { s with events := [issue (.derive n), .engine] } = .next t ∧
      Host.Core.run core 6 { s with
        events := [issue .hmac, .engine, issue (.trunc s.kalg), .engine, issue (.reduce n), .engine] } = .next t ∧
      t.codeDigits = BitVec.ofNat 8 n ∧ t.key = s.key ∧ t.done = true

/-- R3, R240: DERIVE is a function of the key bytes, the algorithm, the counter and the digit count. -/
def Obligations.DeriveDependsOnItsInputsOnly : Prop :=
  ∀ (n : Nat) (s s' : State) (p p' : Pending), s.busy = true → s'.busy = true → s.pending = some p →
    s'.pending = some p' → p.cmd = .derive n → p'.cmd = .derive n → s.dig.wf = true → s'.dig.wf = true →
    s.key = s'.key → s.kalg = s'.kalg → p.ctr = p'.ctr →
    ∃ t t' : State, exec (.derive n) s = .next t ∧ exec (.derive n) s' = .next t' ∧
      t.dig = t'.dig ∧ t.toff = t'.toff ∧ t.trunc = t'.trunc ∧ t.code = t'.code ∧ t.codeDigits = t'.codeDigits

/-! ### HMAC and the hashes -/

/-- R140, R142: the digest and the HMAC of every input have the algorithm's length L: 20, 32 or 64 bytes. -/
def Obligations.DigestsHaveTheAlgorithmsLength : Prop :=
  (digestLen .sha1 = 20 ∧ digestLen .sha256 = 32 ∧ digestLen .sha512 = 64) ∧
  ∀ (a : Alg) (k m : List Byte), (hash a m).length = digestLen a ∧ (hmac a k m).length = digestLen a

/-- R143, R144: the padded message is M, 0x80, the least number of zeros that fills whole blocks, and the bit length
in a field of 8 bytes (16 for SHA-512). -/
def Obligations.PaddingFillsWholeBlocksWithFewestZeros : Prop :=
  ∀ (a : Alg) (m : List Byte), ∃ k : Nat,
    padded a m = m ++ [0x80#8] ++ List.replicate k 0#8 ++ toBE (lengthFieldLen a) (8 * m.length) ∧
    (m.length + 1 + k + lengthFieldLen a) % blockLen a = 0 ∧
    (∀ k', (m.length + 1 + k' + lengthFieldLen a) % blockLen a = 0 → k ≤ k') ∧
    (padded a m).length = m.length + 1 + k + lengthFieldLen a

/-- R152: under every key the inner hash input is B + 8 bytes and the outer B + L, and both parse into two blocks. -/
def Obligations.HmacInputsAreTwoBlocksEach : Prop :=
  ∀ (a : Alg) (k m inner : List Byte) (w : Nat), m.length = 8 → inner.length = digestLen a →
    (hmacKey a k).length = blockLen a ∧
    (messageBlocks a w (xorBytes (hmacKey a k) (rep 0x36 (blockLen a)) ++ m)).length = 2 ∧
    (messageBlocks a w (xorBytes (hmacKey a k) (rep 0x5C (blockLen a)) ++ inner)).length = 2

/-- R142, R141: a key longer than B is replaced by its hash; a key of exactly B bytes is not. -/
def Obligations.LongKeyIsReplacedByItsHash : Prop :=
  (∀ (a : Alg) (k m : List Byte), k.length > blockLen a → hmac a k m = hmac a (hash a k) m) ∧
  (∀ (a : Alg) (k : List Byte), k.length = blockLen a → hmacKey a k = k)

/-- R142: two keys of at most B bytes that differ only in trailing zero bytes give the same HMAC. -/
def Obligations.TrailingZeroKeyBytesDoNotMatter : Prop :=
  ∀ (a : Alg) (k m : List Byte) (z : Nat), k.length + z ≤ blockLen a →
    hmac a (k ++ List.replicate z 0#8) m = hmac a k m

/-! ### Truncation and reduction -/

/-- R201, R202: for every algorithm and digest of its length, the offset is the low nibble of the last byte, the value
the four bytes there as one big-endian number without its top bit, and the window lies inside the digest, its last byte
at most byte 18: E_INTERNAL never arises. -/
def Obligations.TruncationReadsItsWindow : Prop :=
  ∀ (a : Alg) (d : List Byte), d.length = digestLen a → ∃ (off : BitVec 4) (t : BitVec 31),
    dt (digestLen a) d = some (off, t) ∧
    off.toNat = (d.getD (digestLen a - 1) 0).toNat % 16 ∧ off.toNat + 3 ≤ 18 ∧ off.toNat + 4 ≤ digestLen a ∧
    t = (d.getD off.toNat 0 ++ d.getD (off.toNat + 1) 0 ++ d.getD (off.toNat + 2) 0 ++
      d.getD (off.toNat + 3) 0).setWidth 31

/-- R221: the reduction is the remainder below 10^N, and the value itself for N of 10 and more. -/
def Obligations.ReductionIsTheExactRemainder : Prop :=
  (∀ (t : BitVec 31) (n : Nat), red t n < 10 ^ n ∧ ∃ q, t.toNat = q * 10 ^ n + red t n) ∧
  (∀ (t : BitVec 31) (n : Nat), 10 ≤ n → red t n = t.toNat)

/-! ### The register window -/

/-- R60, R61, R7: an access at BASE + off is the transaction at off, for every offset of the 0x80-byte window, any other
address is not this block's, and BASE is 128-byte-aligned. -/
def Obligations.WindowAddressesMapToOffsets : Prop :=
  Config.base % 128 = 0 ∧
  (∀ (off width : Nat) (v : Word), off < 0x80 →
    memRead (Config.base + off) width = some (.read (BitVec.ofNat 7 off) width) ∧
    memWrite (Config.base + off) width v = some (.write (BitVec.ofNat 7 off) width v)) ∧
  (∀ (addr width : Nat) (v : Word), addr < Config.base ∨ Config.base + 0x80 ≤ addr →
    memRead addr width = none ∧ memWrite addr width v = none)

/-- R22 to R41, R64, R66: what a read of each register returns; the result registers while BUSY = 0. That the data read
stands in `rdata` is the model's own (log entry 8). -/
def Obligations.ReadsReturnTheRegisters : Prop :=
  ReadReturns 0x00#7 (fun _ => True) (fun _ => 0x4F545043#32) ∧ ReadReturns 0x04#7 (fun _ => True) (fun _ => 0) ∧
  ReadReturns 0x08#7 (fun _ => True) statusWord ∧ ReadReturns 0x0C#7 (fun _ => True) (fun s => 0#29 ++ s.ie) ∧
  ReadReturns 0x10#7 (fun _ => True) (fun _ => 0) ∧ ReadReturns 0x14#7 (fun s => s.busy = false) (fun s => s.keyLen) ∧
  ReadReturns 0x18#7 (fun _ => True) (fun s => s.counterHi) ∧
  ReadReturns 0x1C#7 (fun _ => True) (fun s => s.counterLo) ∧
  ReadReturns 0x20#7 (fun s => s.busy = false) (fun s => 0#1 ++ s.trunc) ∧
  ReadReturns 0x24#7 (fun s => s.busy = false) (fun s => 0#28 ++ s.toff) ∧
  ReadReturns 0x28#7 (fun s => s.busy = false) (fun s => s.code) ∧
  ReadReturns 0x2C#7 (fun s => s.busy = false) (fun s => 0#24 ++ s.codeDigits) ∧
  ∀ i : Nat, i < 16 → ReadReturns (BitVec.ofNat 7 (0x40 + 4 * i)) (fun s => s.busy = false)
    (fun s => s.dig.read (4 * i) ++ s.dig.read (4 * i + 1) ++ s.dig.read (4 * i + 2) ++ s.dig.read (4 * i + 3))

/-- R66: while BUSY = 1 a read of a result register returns some value, whatever it is, and changes no register; the
count of draws is the model's own (log entry 6). -/
def Obligations.BusyReadsOfResultsReturnSomeValue : Prop :=
  ∀ (s : State) (off : BitVec 7) (rest : List Event), s.resetLine = false → s.events = .read off 4 :: rest →
    s.busy = true →
    (off ∈ [0x14#7, 0x20#7, 0x24#7, 0x28#7, 0x2C#7] ∨ (0x40 ≤ off.toNat ∧ off.toNat % 4 = 0)) →
    ∃ v : Word, step s = .next { s with events := rest, rdata := some v, draws := s.draws + 1 }

/-- R68, R66: no read changes a register: only the data read and the count of free values, the model's own fields (log
entries 6 and 8), differ afterwards. -/
def Obligations.ReadsChangeNoRegister : Prop :=
  ∀ (s t : State) (off : BitVec 7) (width : Nat) (rest : List Event), s.events = .read off width :: rest →
    step s = .next t →
    ∃ v : Word, t = { s with events := rest, rdata := some v, draws := t.draws } ∧
      (t.draws = s.draws ∨ (t.draws = s.draws + 1 ∧ s.busy = true))

/-- R62: with the reset input released a step faults exactly on a host transaction of a width other than 4, at a
misaligned offset or at a reserved one, and the fault is the bus error. -/
def Obligations.BusErrorsAreExactlyTheBadTransactions : Prop :=
  ∀ s : State, s.resetLine = false →
    ((∃ r, step s = .fault r) ↔
      ∃ (off : BitVec 7) (width : Nat) (rest : List Event),
        (s.events = .read off width :: rest ∨ ∃ v, s.events = .write off width v :: rest) ∧
        (width ≠ 4 ∨ off.toNat % 4 ≠ 0 ∨ off ∈ [0x30#7, 0x34#7, 0x38#7, 0x3C#7])) ∧
    (∀ r, step s = .fault r → r = .busError)

/-- The model's choice for R340's transaction made in reset, which the spec gives no step (log entry 7): the fault
accessDuringReset, on every host transaction while the reset input is asserted and on nothing else. -/
def Obligations.TransactionsInResetFault : Prop :=
  ∀ s : State, s.resetLine = true →
    ((∃ r, step s = .fault r) ↔
      ∃ (off : BitVec 7) (width : Nat) (rest : List Event),
        s.events = .read off width :: rest ∨ ∃ v, s.events = .write off width v :: rest) ∧
    (∀ r, step s = .fault r → r = .accessDuringReset)

/-- R312, R89: from every state a step answers a next state or the fault of a host transaction: E_INTERNAL is never
reached and no command is refused. -/
def Obligations.EveryStepIsSafe : Prop :=
  ∀ s : State, SafeOutcome (step s)

/-- R63: a write to ID, KEY_LEN, TOFF, CODE or CODE_DIGITS changes nothing. -/
def Obligations.ReadOnlyWritesAreIgnored : Prop :=
  ∀ off : BitVec 7, off ∈ [0x00#7, 0x14#7, 0x24#7, 0x28#7, 0x2C#7] →
    WriteMakes off (fun _ => True) (fun _ s => s)

/-- R65, R29: while BUSY = 1 a write to an operand register is dropped: OVR set and nothing else changed. -/
def Obligations.OperandWritesWhileBusyAreDropped : Prop :=
  ∀ off : BitVec 7, off ∈ [0x10#7, 0x18#7, 0x1C#7, 0x20#7] ∨ (0x40 ≤ off.toNat ∧ off.toNat % 4 = 0) →
    WriteMakes off (fun s => s.busy = true) (fun _ s => { s with ovr := true })

/-- R65, R33, R36, R39: while BUSY = 0 a write to KEY_DATA, COUNTER_HI, COUNTER_LO or TRUNC stores the value (TRUNC
without bit 31) and nothing else. -/
def Obligations.OperandWritesWhileIdleStore : Prop :=
  WriteMakes 0x10#7 (fun s => s.busy = false) (fun v s => { s with keyData := v }) ∧
  WriteMakes 0x18#7 (fun s => s.busy = false) (fun v s => { s with counterHi := v }) ∧
  WriteMakes 0x1C#7 (fun s => s.busy = false) (fun v s => { s with counterLo := v }) ∧
  WriteMakes 0x20#7 (fun s => s.busy = false) (fun v s => { s with trunc := v.extractLsb' 0 31 })

/-- R38, R65: a write of v to DIGESTi while BUSY = 0 sets DIG[4i] to DIG[4i+3], the most significant byte first, and
leaves every other byte and every register. -/
def Obligations.DigestWriteSetsItsFourBytes : Prop :=
  ∀ (s : State) (i : Nat) (v : Word) (rest : List Event), i < 16 → s.resetLine = false →
    s.events = .write (BitVec.ofNat 7 (0x40 + 4 * i)) 4 v :: rest → s.busy = false → s.dig.wf = true →
    ∃ m : Memory, step s = .next { s with events := rest, dig := m } ∧
      m.read (4 * i) = v.extractLsb' 24 8 ∧ m.read (4 * i + 1) = v.extractLsb' 16 8 ∧
      m.read (4 * i + 2) = v.extractLsb' 8 8 ∧ m.read (4 * i + 3) = v.extractLsb' 0 8 ∧
      (∀ j, j < 4 * i ∨ 4 * i + 4 ≤ j → m.read j = s.dig.read j)

/-- R27, R28, R29, R65: a write to STATUS, also while BUSY = 1, clears DONE where bit 1 is 1 and OVR where bit 3 is 1,
and nothing else. -/
def Obligations.StatusWriteClearsDoneAndOvrOnly : Prop :=
  WriteMakes 0x08#7 (fun _ => True) (fun v s => { s with
    done := if v.getLsbD 1 then false else s.done
    ovr := if v.getLsbD 3 then false else s.ovr })

/-- R32: a write to IE, also while BUSY = 1, stores bits 2:0 and nothing else. -/
def Obligations.IeWriteStoresThreeBits : Prop :=
  WriteMakes 0x0C#7 (fun _ => True) (fun v s => { s with ie := v.extractLsb' 0 3 })

/-- R40, R33: no read tells the key bytes or KEY_DATA: with others in their place it returns the same data. -/
def Obligations.KeyBytesAreNeverReadable : Prop :=
  ∀ (s t : State) (off : BitVec 7) (width : Nat) (rest : List Event) (key' : List Byte) (kd' : Word),
    s.events = .read off width :: rest → step s = .next t →
    step { s with key := key', keyData := kd' } = .next { t with key := key', keyData := kd' }

/-! ### STATUS and IRQ -/

/-- R25, R28, R30, R31, R310: the fields of STATUS; bits 31:12 read 0, KSTATE and KALG are never 0b11, ERRCODE is at
most 8. -/
def Obligations.StatusWordHasItsFields : Prop :=
  ∀ s : State,
    (statusWord s).getLsbD 0 = s.busy ∧ (statusWord s).getLsbD 1 = s.done ∧ (statusWord s).getLsbD 2 = s.err ∧
    (statusWord s).getLsbD 3 = s.ovr ∧
    ((statusWord s).extractLsb' 4 2 = 0b00#2 ↔ s.kstate = .none) ∧
    ((statusWord s).extractLsb' 4 2 = 0b01#2 ↔ s.kstate = .loading) ∧
    ((statusWord s).extractLsb' 4 2 = 0b10#2 ↔ s.kstate = .ready) ∧
    ((statusWord s).extractLsb' 6 2 = 0b00#2 ↔ s.kalg = .sha1) ∧
    ((statusWord s).extractLsb' 6 2 = 0b01#2 ↔ s.kalg = .sha256) ∧
    ((statusWord s).extractLsb' 6 2 = 0b10#2 ↔ s.kalg = .sha512) ∧
    ((statusWord s).extractLsb' 8 4 = 0#4 ↔ s.errcode = none) ∧
    ((statusWord s).extractLsb' 8 4).toNat ≤ 8 ∧ (statusWord s).toNat < 2 ^ 12

/-- R310: the number of each error code, as ERRCODE holds it. -/
def Obligations.ErrcodeHoldsTheNumberOfTheError : Prop :=
  ∀ (s : State) (e : ErrCode), s.errcode = some e →
    (e = .eOpc → (statusWord s).extractLsb' 8 4 = 1#4) ∧ (e = .eRsvd → (statusWord s).extractLsb' 8 4 = 2#4) ∧
    (e = .eAlg → (statusWord s).extractLsb' 8 4 = 3#4) ∧ (e = .eDigits → (statusWord s).extractLsb' 8 4 = 4#4) ∧
    (e = .eSeq → (statusWord s).extractLsb' 8 4 = 5#4) ∧ (e = .eNoKey → (statusWord s).extractLsb' 8 4 = 6#4) ∧
    (e = .eKeyLen → (statusWord s).extractLsb' 8 4 = 7#4) ∧
    (e = .eInternal → (statusWord s).extractLsb' 8 4 = 8#4)

/-- R43, R320: IRQ is the level function of the enables and the STATUS bits. -/
def Obligations.IrqIsALevelOfEnablesAndStatus : Prop :=
  ∀ s : State, irq s = true ↔
    (s.ie.getLsbD 0 = true ∧ (statusWord s).getLsbD 1 = true) ∨
    (s.ie.getLsbD 1 = true ∧ (statusWord s).getLsbD 2 = true) ∨
    (s.ie.getLsbD 2 = true ∧ (statusWord s).getLsbD 3 = true)

/-! ### The whole machine -/

/-- R45, R26: the invariant holds at reset. -/
def Obligations.InvariantHoldsAtReset : Prop := Invariant State.reset

/-- R45, R26, R30, R31, R340, R354: every step keeps the invariant. -/
def Obligations.EveryStepKeepsTheInvariant : Prop :=
  ∀ s t : State, Invariant s → step s = .next t → Invariant t

/-- R45 item 6: with BUSY = 0, reading CODE and CODE_DIGITS after any step gives a code below 10^digits. -/
def Obligations.CodeStaysBelowItsPowerOfTen : Prop :=
  ∀ s t : State, Invariant s → step s = .next t →
    (regValue .code t).toNat < 10 ^ (regValue .codeDigits t).toNat ∧ (regValue .codeDigits t).toNat ≤ 255 ∧
    (regValue .keyLen t).toNat = t.key.length ∧ (regValue .trunc t).toNat < 2 ^ 31 ∧ (regValue .toff t).toNat < 16

/-- R40: the only ways the key store changes: hardware reset, SRESET, the completion of KEY_BEGIN, KEY_ZERO or (while
LOADING) KEY_APPEND, and a KEY_APPEND rejected with E_KEYLEN. -/
def Obligations.KeyStoreChangesOnlyByItsCommands : Prop :=
  ∀ s t : State, Invariant s → step s = .next t →
    t.key = s.key ∨
    (t.key = [] ∧ ∃ rest, s.events = .resetAssert :: rest ∨ s.events = .resetRelease :: rest ∨
      s.events = .write 0x04#7 4 0x00000001#32 :: rest) ∨
    (t.key = [] ∧ s.busy = true ∧ t.busy = false ∧
      ∃ p, s.pending = some p ∧ ((∃ a, p.cmd = .keyBegin a) ∨ p.cmd = .keyZero)) ∨
    (s.kstate = .loading ∧ s.busy = true ∧ t.busy = false ∧
      ∃ p nb, s.pending = some p ∧ p.cmd = .keyAppend nb ∧
        t.key = s.key ++ [p.kd.extractLsb' 24 8, p.kd.extractLsb' 16 8, p.kd.extractLsb' 8 8,
          p.kd.extractLsb' 0 8].take nb) ∨
    (t.key = [] ∧ s.busy = false ∧ t.errcode = some .eKeyLen ∧
      ∃ w nb rest, s.events = .write 0x04#7 4 w :: rest ∧ decode w = .ok (.keyAppend nb) ∧
        s.keyLen.toNat + nb > 2 ^ 32 - 1)

/-- R36, R33, R32: no command but SRESET changes the counter, KEY_DATA or IE. -/
def Obligations.CommandsLeaveCounterKeyDataAndEnables : Prop :=
  ∀ (i : Instr) (s t : State), i ≠ .sreset → exec i s = .next t →
    t.counterHi = s.counterHi ∧ t.counterLo = s.counterLo ∧ t.keyData = s.keyData ∧ t.ie = s.ie

/-- R28, R303: ERR and ERRCODE are cleared only by the completion of CLR_ERR, SRESET or reset; until then ERRCODE keeps
the first error. -/
def Obligations.ErrorStaysUntilCleared : Prop :=
  ∀ s t : State, Invariant s → s.err = true → step s = .next t →
    (t.err = true ∧ t.errcode = s.errcode) ∨
    (∃ rest, s.events = .resetAssert :: rest ∨ s.events = .resetRelease :: rest ∨
      s.events = .write 0x04#7 4 0x00000001#32 :: rest) ∨
    (s.busy = true ∧ t.busy = false ∧ ∃ p, s.pending = some p ∧ p.cmd = .clrErr)

/-- R350, R305, R304: no host transaction delays, changes or cancels the pending command but SRESET and reset; the
engine's step completes it, by its event or when no event is left (log entry 2). -/
def Obligations.PendingCommandIsAbortedOnlyByReset : Prop :=
  ∀ (s t : State) (p : Pending), Invariant s → s.pending = some p → step s = .next t →
    (t.pending = some p ∧ t.busy = true ∧ ∃ e rest, s.events = e :: rest ∧ e ≠ .engine) ∨
    (t.pending = none ∧ t.busy = false ∧ t.done = true ∧ (s.events = [] ∨ ∃ rest, s.events = .engine :: rest)) ∨
    (t.pending = none ∧ t.busy = false ∧
      ∃ rest, s.events = .resetAssert :: rest ∨ s.events = .resetRelease :: rest ∨
        s.events = .write 0x04#7 4 0x00000001#32 :: rest)

/-- R350: with the completion left to the engine (log entry 2), a pending command completes after the scheduled
transactions at the latest, whatever they are, if none faults and none is SRESET. -/
def Obligations.AcceptedCommandCompletes : Prop :=
  ∀ s : State, Invariant s → s.busy = true → (∀ e ∈ s.events, plainTransaction e = true ∨ e = .engine) →
    ∃ k t, k ≤ s.events.length + 1 ∧ Host.Core.run core k s = .next t ∧
      t.busy = false ∧ t.done = true ∧ t.pending = none

/-- R92, R343, R121, R122: LOADKEY from an idle core without an error leaves exactly the given bytes as the complete
key, however often each of its WAITs polls, each on its own (log entry 17). -/
def Obligations.LoadKeyLoadsExactlyTheBytes : Prop :=
  ∀ (s : State) (polls : Nat → Nat) (a : Alg) (b : List Byte), s.busy = false → s.err = false → s.resetLine = false →
    b.length ≤ 2 ^ 32 - 1 →
    ∃ t : State,
      Host.Core.run core (loadKey polls a b).length { s with events := loadKey polls a b } = .next t ∧
      t.key = b ∧ t.keyLen.toNat = b.length ∧ t.kstate = .ready ∧ t.kalg = a ∧ t.busy = false ∧ t.done = true ∧
      t.err = false ∧ t.ovr = s.ovr ∧ t.counterHi = s.counterHi ∧ t.counterLo = s.counterLo ∧ t.dig = s.dig ∧
      t.trunc = s.trunc ∧ t.toff = s.toff ∧ t.code = s.code ∧ t.codeDigits = s.codeDigits ∧ t.ie = s.ie
end

