-- ==== Sys2Proof/Laws/Decode.lean ====
section
/-! SUPPORT. What the decoder answers: the row a decoded word meets, and that a decoded command is well formed. -/

namespace Sys2Proof

theorem opOf_eq_some {o : BitVec 8} {op : Op} : opOf o = some op ↔ op.opc = o := by
  constructor
  · intro h
    have := List.find?_some h
    simpa using this
  · rintro rfl
    cases op <;> decide

theorem opOf_eq_none {o : BitVec 8} : opOf o = none ↔ ∀ op : Op, op.opc ≠ o := by
  constructor
  · intro h op he
    rw [opOf_eq_some.2 he] at h
    cases h
  · intro h
    cases ho : opOf o with
    | none => rfl
    | some op => exact absurd (opOf_eq_some.1 ho) (h op)

theorem algOf_code (a : Alg) : algOf a.code = some a := by cases a <;> decide

theorem algOf_eq_some {c : BitVec 2} {a : Alg} : algOf c = some a ↔ a.code = c := by
  constructor
  · intro h
    unfold algOf at h
    repeat' split at h
    all_goals simp_all [Alg.code]
    all_goals (subst h; rfl)
  · rintro rfl
    exact algOf_code a

theorem algOf_eq_none {c : BitVec 2} : algOf c = none ↔ c = 0b11 := by
  revert c; decide

/-- The answer of the last checks belongs to the row they were made for, and its operands are in range. -/
theorem decodeFields_ok {op : Op} {w : Word} {i : Instr} (h : decodeFields op w = .ok i) :
    i.op = op ∧ i.wf = true := by
  unfold decodeFields at h
  split at h
  any_goals (cases h; exact ⟨rfl, rfl⟩)
  · split at h <;> cases h; exact ⟨rfl, rfl⟩
  · cases h
    refine ⟨rfl, ?_⟩
    have := (nbm1Field w).isLt
    simp [Instr.wf, wfByteCount]; omega
  · split at h <;> cases h; exact ⟨rfl, rfl⟩
  all_goals
    split at h <;> cases h
    next hd =>
    refine ⟨rfl, ?_⟩
    have := (digField w).isLt
    have : (digField w).toNat ≠ 0 := fun h0 => hd (BitVec.eq_of_toNat_eq (by simpa using h0))
    simp [Instr.wf, wfDigits]; omega

/-- A decoded word meets its row's opcode, mask and match (R87, R90), and its fields pass the last checks. -/
theorem decode_ok {w : Word} {i : Instr} (h : decode w = .ok i) :
    i.op.opc = opcField w ∧ w &&& i.op.mask = i.op.bits ∧ decodeFields i.op w = .ok i ∧ i.wf = true := by
  unfold decode at h
  split at h
  · cases h
  · next op ho =>
    split at h
    · cases h
    · next hm =>
      obtain ⟨rfl, hw⟩ := decodeFields_ok h
      exact ⟨opOf_eq_some.1 ho, not_not.1 hm, h, hw⟩

/-- Where an opcode is assigned and the mask met, decoding is the last checks (R90). -/
theorem decode_of_row {w : Word} {op : Op} (ho : op.opc = opcField w) (hm : w &&& op.mask = op.bits) :
    decode w = decodeFields op w := by
  simp [decode, opOf_eq_some.2 ho, hm]

theorem decode_wf {w : Word} {i : Instr} (h : decode w = .ok i) : i.wf = true := (decode_ok h).2.2.2

/-- SRESET has one word (R101). -/
theorem decode_sreset {w : Word} (h : decode w = .ok .sreset) : w = 0x00000001 := by
  have hm : w &&& BitVec.allOnes 32 = 0x00000001 := (decode_ok h).2.1
  rwa [BitVec.and_allOnes] at hm

/-- CLR_ERR has one word (R102). -/
theorem decode_clrErr {w : Word} (h : decode w = .ok .clrErr) : w = 0x00000002 := by
  have hm : w &&& BitVec.allOnes 32 = 0x00000002 := (decode_ok h).2.1
  rwa [BitVec.and_allOnes] at hm

/-- A word that meets a row's mask has the row's opcode: every mask covers OPC (R87). -/
theorem opc_of_masked {w : Word} {op : Op} (h : w &&& op.mask = op.bits) : op.opc = opcField w := by
  have h2 := congrArg (BitVec.extractLsb' 0 8) h
  rw [BitVec.extractLsb'_and] at h2
  have e1 : op.mask.extractLsb' 0 8 = BitVec.allOnes 8 := by cases op <;> decide
  have e2 : op.bits.extractLsb' 0 8 = op.opc := by cases op <;> decide
  rw [e1, e2, BitVec.and_allOnes] at h2
  exact h2.symm

/-! ### Fields of a word -/

/-- The mask of a row with one used field: 0 on the field's bits, 1 elsewhere. -/
def clearsField (mask : Word) (p k : Nat) : Bool :=
  (List.range 32).all fun i => mask.getLsbD i == !(decide (p ≤ i) && decide (i < p + k))

theorem clearsField_bit {mask : Word} {p k i : Nat} (h : clearsField mask p k = true) (hi : i < 32) :
    mask.getLsbD i = !(decide (p ≤ i) && decide (i < p + k)) := by
  simpa using List.all_eq_true.1 h i (by simpa using hi)

/-- A word is its masked part with its field put back. -/
theorem word_eq_masked_or_field {mask : Word} {p k : Nat} (h : clearsField mask p k = true) (w : Word) :
    w = (w &&& mask) ||| ((w.extractLsb' p k).setWidth 32 <<< p) := by
  apply BitVec.eq_of_getLsbD_eq
  intro i hi
  simp only [BitVec.getLsbD_or, BitVec.getLsbD_and, BitVec.getLsbD_shiftLeft, BitVec.getLsbD_setWidth,
    BitVec.getLsbD_extractLsb', clearsField_bit h hi]
  by_cases hp : p ≤ i <;> by_cases hk : i < p + k
  · simp [hp, hk, hi, show ¬ i < p by omega, show i - p < 32 by omega, show i - p < k by omega]
  · simp [hp, hk, hi, show ¬ i < p by omega, show ¬ i - p < k by omega]
  · simp [hp, hk, hi, show i < p by omega]
  · simp [hp, hk, hi, show i < p by omega]

/-- A field put over a word that is 0 from the field on: the word is what the mask leaves, the field is read back, and
the bits below the field are the word's. -/
theorem masked_and_field_of_or {mask low : Word} {p k : Nat} (h : clearsField mask p k = true)
    (hl : low.toNat < 2 ^ p) (hpk : p + k ≤ 32) (f : BitVec k) :
    (low ||| (f.setWidth 32 <<< p)) &&& mask = low ∧ (low ||| (f.setWidth 32 <<< p)).extractLsb' p k = f ∧
      ∀ n, n ≤ p → (low ||| (f.setWidth 32 <<< p)).extractLsb' 0 n = low.extractLsb' 0 n := by
  have low0 : ∀ i, p ≤ i → low.getLsbD i = false := fun i hi =>
    Nat.testBit_lt_two_pow (Nat.lt_of_lt_of_le hl (Nat.pow_le_pow_right (by decide) hi))
  refine ⟨?_, ?_, ?_⟩
  · apply BitVec.eq_of_getLsbD_eq
    intro i hi
    simp only [BitVec.getLsbD_or, BitVec.getLsbD_and, BitVec.getLsbD_shiftLeft, BitVec.getLsbD_setWidth,
      clearsField_bit h hi]
    by_cases hp : p ≤ i
    · by_cases hk : i < p + k
      · simp [hp, hk, low0 i hp]
      · simp [hp, hk, low0 i hp, BitVec.getLsbD_of_ge f (i - p) (by omega)]
    · simp [hp, show i < p by omega]
  · apply BitVec.eq_of_getLsbD_eq
    intro i hi
    simp only [BitVec.getLsbD_extractLsb', BitVec.getLsbD_or, BitVec.getLsbD_shiftLeft, BitVec.getLsbD_setWidth,
      low0 (p + i) (by omega)]
    simp [hi, show p + i < 32 by omega, show i < 32 by omega]
  · intro n hn
    apply BitVec.eq_of_getLsbD_eq
    intro i hi
    simp [hi, show i < p by omega]

end Sys2Proof
end

