-- ==== Sys2Proof/Laws/State.lean ====
section
/-! SUPPORT. One lemma for each field of State under each named update, so that no proof unfolds a record update. -/

namespace Sys2Proof.Machine

variable (s : State)

/-! ### accept -/

@[simp] theorem accept_busy (i : Instr) : (accept i s).busy = true := rfl
@[simp] theorem accept_done (i : Instr) : (accept i s).done = false := rfl
@[simp] theorem accept_err (i : Instr) : (accept i s).err = s.err := rfl
@[simp] theorem accept_ovr (i : Instr) : (accept i s).ovr = s.ovr := rfl
@[simp] theorem accept_kstate (i : Instr) : (accept i s).kstate = s.kstate := rfl
@[simp] theorem accept_kalg (i : Instr) : (accept i s).kalg = s.kalg := rfl
@[simp] theorem accept_errcode (i : Instr) : (accept i s).errcode = s.errcode := rfl
@[simp] theorem accept_ie (i : Instr) : (accept i s).ie = s.ie := rfl
@[simp] theorem accept_keyData (i : Instr) : (accept i s).keyData = s.keyData := rfl
@[simp] theorem accept_keyLen (i : Instr) : (accept i s).keyLen = s.keyLen := rfl
@[simp] theorem accept_counterHi (i : Instr) : (accept i s).counterHi = s.counterHi := rfl
@[simp] theorem accept_counterLo (i : Instr) : (accept i s).counterLo = s.counterLo := rfl
@[simp] theorem accept_trunc (i : Instr) : (accept i s).trunc = s.trunc := rfl
@[simp] theorem accept_toff (i : Instr) : (accept i s).toff = s.toff := rfl
@[simp] theorem accept_code (i : Instr) : (accept i s).code = s.code := rfl
@[simp] theorem accept_codeDigits (i : Instr) : (accept i s).codeDigits = s.codeDigits := rfl
@[simp] theorem accept_dig (i : Instr) : (accept i s).dig = s.dig := rfl
@[simp] theorem accept_key (i : Instr) : (accept i s).key = s.key := rfl
@[simp] theorem accept_pending (i : Instr) : (accept i s).pending = some ⟨i, s.keyData, counter s⟩ := rfl
@[simp] theorem accept_resetLine (i : Instr) : (accept i s).resetLine = s.resetLine := rfl
@[simp] theorem accept_events (i : Instr) : (accept i s).events = s.events := rfl
@[simp] theorem accept_rdata (i : Instr) : (accept i s).rdata = s.rdata := rfl
@[simp] theorem accept_draws (i : Instr) : (accept i s).draws = s.draws := rfl

/-! ### discardKey -/

@[simp] theorem discardKey_busy : (discardKey s).busy = s.busy := rfl
@[simp] theorem discardKey_done : (discardKey s).done = s.done := rfl
@[simp] theorem discardKey_err : (discardKey s).err = s.err := rfl
@[simp] theorem discardKey_ovr : (discardKey s).ovr = s.ovr := rfl
@[simp] theorem discardKey_kstate : (discardKey s).kstate = .none := rfl
@[simp] theorem discardKey_kalg : (discardKey s).kalg = .sha1 := rfl
@[simp] theorem discardKey_errcode : (discardKey s).errcode = s.errcode := rfl
@[simp] theorem discardKey_ie : (discardKey s).ie = s.ie := rfl
@[simp] theorem discardKey_keyData : (discardKey s).keyData = s.keyData := rfl
@[simp] theorem discardKey_keyLen : (discardKey s).keyLen = 0 := rfl
@[simp] theorem discardKey_counterHi : (discardKey s).counterHi = s.counterHi := rfl
@[simp] theorem discardKey_counterLo : (discardKey s).counterLo = s.counterLo := rfl
@[simp] theorem discardKey_trunc : (discardKey s).trunc = s.trunc := rfl
@[simp] theorem discardKey_toff : (discardKey s).toff = s.toff := rfl
@[simp] theorem discardKey_code : (discardKey s).code = s.code := rfl
@[simp] theorem discardKey_codeDigits : (discardKey s).codeDigits = s.codeDigits := rfl
@[simp] theorem discardKey_dig : (discardKey s).dig = s.dig := rfl
@[simp] theorem discardKey_key : (discardKey s).key = [] := rfl
@[simp] theorem discardKey_pending : (discardKey s).pending = s.pending := rfl
@[simp] theorem discardKey_resetLine : (discardKey s).resetLine = s.resetLine := rfl
@[simp] theorem discardKey_events : (discardKey s).events = s.events := rfl
@[simp] theorem discardKey_rdata : (discardKey s).rdata = s.rdata := rfl
@[simp] theorem discardKey_draws : (discardKey s).draws = s.draws := rfl

/-! ### clearError -/

@[simp] theorem clearError_busy : (clearError s).busy = s.busy := rfl
@[simp] theorem clearError_done : (clearError s).done = s.done := rfl
@[simp] theorem clearError_err : (clearError s).err = false := rfl
@[simp] theorem clearError_ovr : (clearError s).ovr = false := rfl
@[simp] theorem clearError_kstate : (clearError s).kstate = s.kstate := rfl
@[simp] theorem clearError_kalg : (clearError s).kalg = s.kalg := rfl
@[simp] theorem clearError_errcode : (clearError s).errcode = none := rfl
@[simp] theorem clearError_ie : (clearError s).ie = s.ie := rfl
@[simp] theorem clearError_keyData : (clearError s).keyData = s.keyData := rfl
@[simp] theorem clearError_keyLen : (clearError s).keyLen = s.keyLen := rfl
@[simp] theorem clearError_counterHi : (clearError s).counterHi = s.counterHi := rfl
@[simp] theorem clearError_counterLo : (clearError s).counterLo = s.counterLo := rfl
@[simp] theorem clearError_trunc : (clearError s).trunc = s.trunc := rfl
@[simp] theorem clearError_toff : (clearError s).toff = s.toff := rfl
@[simp] theorem clearError_code : (clearError s).code = s.code := rfl
@[simp] theorem clearError_codeDigits : (clearError s).codeDigits = s.codeDigits := rfl
@[simp] theorem clearError_dig : (clearError s).dig = s.dig := rfl
@[simp] theorem clearError_key : (clearError s).key = s.key := rfl
@[simp] theorem clearError_pending : (clearError s).pending = s.pending := rfl
@[simp] theorem clearError_resetLine : (clearError s).resetLine = s.resetLine := rfl
@[simp] theorem clearError_events : (clearError s).events = s.events := rfl
@[simp] theorem clearError_rdata : (clearError s).rdata = s.rdata := rfl
@[simp] theorem clearError_draws : (clearError s).draws = s.draws := rfl

/-! ### discard -/

@[simp] theorem discard_busy : (discard s).busy = s.busy := rfl
@[simp] theorem discard_done : (discard s).done = true := rfl
@[simp] theorem discard_err : (discard s).err = s.err := rfl
@[simp] theorem discard_ovr : (discard s).ovr = s.ovr := rfl
@[simp] theorem discard_kstate : (discard s).kstate = s.kstate := rfl
@[simp] theorem discard_kalg : (discard s).kalg = s.kalg := rfl
@[simp] theorem discard_errcode : (discard s).errcode = s.errcode := rfl
@[simp] theorem discard_ie : (discard s).ie = s.ie := rfl
@[simp] theorem discard_keyData : (discard s).keyData = s.keyData := rfl
@[simp] theorem discard_keyLen : (discard s).keyLen = s.keyLen := rfl
@[simp] theorem discard_counterHi : (discard s).counterHi = s.counterHi := rfl
@[simp] theorem discard_counterLo : (discard s).counterLo = s.counterLo := rfl
@[simp] theorem discard_trunc : (discard s).trunc = s.trunc := rfl
@[simp] theorem discard_toff : (discard s).toff = s.toff := rfl
@[simp] theorem discard_code : (discard s).code = s.code := rfl
@[simp] theorem discard_codeDigits : (discard s).codeDigits = s.codeDigits := rfl
@[simp] theorem discard_dig : (discard s).dig = s.dig := rfl
@[simp] theorem discard_key : (discard s).key = s.key := rfl
@[simp] theorem discard_pending : (discard s).pending = s.pending := rfl
@[simp] theorem discard_resetLine : (discard s).resetLine = s.resetLine := rfl
@[simp] theorem discard_events : (discard s).events = s.events := rfl
@[simp] theorem discard_rdata : (discard s).rdata = s.rdata := rfl
@[simp] theorem discard_draws : (discard s).draws = s.draws := rfl

/-! ### drop -/

@[simp] theorem drop_busy : (drop s).busy = s.busy := rfl
@[simp] theorem drop_done : (drop s).done = s.done := rfl
@[simp] theorem drop_err : (drop s).err = s.err := rfl
@[simp] theorem drop_ovr : (drop s).ovr = true := rfl
@[simp] theorem drop_kstate : (drop s).kstate = s.kstate := rfl
@[simp] theorem drop_kalg : (drop s).kalg = s.kalg := rfl
@[simp] theorem drop_errcode : (drop s).errcode = s.errcode := rfl
@[simp] theorem drop_ie : (drop s).ie = s.ie := rfl
@[simp] theorem drop_keyData : (drop s).keyData = s.keyData := rfl
@[simp] theorem drop_keyLen : (drop s).keyLen = s.keyLen := rfl
@[simp] theorem drop_counterHi : (drop s).counterHi = s.counterHi := rfl
@[simp] theorem drop_counterLo : (drop s).counterLo = s.counterLo := rfl
@[simp] theorem drop_trunc : (drop s).trunc = s.trunc := rfl
@[simp] theorem drop_toff : (drop s).toff = s.toff := rfl
@[simp] theorem drop_code : (drop s).code = s.code := rfl
@[simp] theorem drop_codeDigits : (drop s).codeDigits = s.codeDigits := rfl
@[simp] theorem drop_dig : (drop s).dig = s.dig := rfl
@[simp] theorem drop_key : (drop s).key = s.key := rfl
@[simp] theorem drop_pending : (drop s).pending = s.pending := rfl
@[simp] theorem drop_resetLine : (drop s).resetLine = s.resetLine := rfl
@[simp] theorem drop_events : (drop s).events = s.events := rfl
@[simp] theorem drop_rdata : (drop s).rdata = s.rdata := rfl
@[simp] theorem drop_draws : (drop s).draws = s.draws := rfl

/-! ### finish -/

@[simp] theorem finish_busy : (finish s).busy = false := rfl
@[simp] theorem finish_done : (finish s).done = true := rfl
@[simp] theorem finish_err : (finish s).err = s.err := rfl
@[simp] theorem finish_ovr : (finish s).ovr = s.ovr := rfl
@[simp] theorem finish_kstate : (finish s).kstate = s.kstate := rfl
@[simp] theorem finish_kalg : (finish s).kalg = s.kalg := rfl
@[simp] theorem finish_errcode : (finish s).errcode = s.errcode := rfl
@[simp] theorem finish_ie : (finish s).ie = s.ie := rfl
@[simp] theorem finish_keyData : (finish s).keyData = s.keyData := rfl
@[simp] theorem finish_keyLen : (finish s).keyLen = s.keyLen := rfl
@[simp] theorem finish_counterHi : (finish s).counterHi = s.counterHi := rfl
@[simp] theorem finish_counterLo : (finish s).counterLo = s.counterLo := rfl
@[simp] theorem finish_trunc : (finish s).trunc = s.trunc := rfl
@[simp] theorem finish_toff : (finish s).toff = s.toff := rfl
@[simp] theorem finish_code : (finish s).code = s.code := rfl
@[simp] theorem finish_codeDigits : (finish s).codeDigits = s.codeDigits := rfl
@[simp] theorem finish_dig : (finish s).dig = s.dig := rfl
@[simp] theorem finish_key : (finish s).key = s.key := rfl
@[simp] theorem finish_pending : (finish s).pending = none := rfl
@[simp] theorem finish_resetLine : (finish s).resetLine = s.resetLine := rfl
@[simp] theorem finish_events : (finish s).events = s.events := rfl
@[simp] theorem finish_rdata : (finish s).rdata = s.rdata := rfl
@[simp] theorem finish_draws : (finish s).draws = s.draws := rfl

/-! ### resetValues -/

@[simp] theorem resetValues_busy : (resetValues s).busy = false := rfl
@[simp] theorem resetValues_done : (resetValues s).done = false := rfl
@[simp] theorem resetValues_err : (resetValues s).err = false := rfl
@[simp] theorem resetValues_ovr : (resetValues s).ovr = false := rfl
@[simp] theorem resetValues_kstate : (resetValues s).kstate = .none := rfl
@[simp] theorem resetValues_kalg : (resetValues s).kalg = .sha1 := rfl
@[simp] theorem resetValues_errcode : (resetValues s).errcode = none := rfl
@[simp] theorem resetValues_ie : (resetValues s).ie = 0 := rfl
@[simp] theorem resetValues_keyData : (resetValues s).keyData = 0 := rfl
@[simp] theorem resetValues_keyLen : (resetValues s).keyLen = 0 := rfl
@[simp] theorem resetValues_counterHi : (resetValues s).counterHi = 0 := rfl
@[simp] theorem resetValues_counterLo : (resetValues s).counterLo = 0 := rfl
@[simp] theorem resetValues_trunc : (resetValues s).trunc = 0 := rfl
@[simp] theorem resetValues_toff : (resetValues s).toff = 0 := rfl
@[simp] theorem resetValues_code : (resetValues s).code = 0 := rfl
@[simp] theorem resetValues_codeDigits : (resetValues s).codeDigits = 0 := rfl
@[simp] theorem resetValues_dig : (resetValues s).dig = [] := rfl
@[simp] theorem resetValues_key : (resetValues s).key = [] := rfl
@[simp] theorem resetValues_pending : (resetValues s).pending = none := rfl
@[simp] theorem resetValues_resetLine : (resetValues s).resetLine = s.resetLine := rfl
@[simp] theorem resetValues_events : (resetValues s).events = s.events := rfl
@[simp] theorem resetValues_rdata : (resetValues s).rdata = s.rdata := rfl
@[simp] theorem resetValues_draws : (resetValues s).draws = s.draws := rfl

/-! ### hardReset -/

@[simp] theorem hardReset_busy (b : Bool) : (hardReset b s).busy = false := rfl
@[simp] theorem hardReset_done (b : Bool) : (hardReset b s).done = false := rfl
@[simp] theorem hardReset_err (b : Bool) : (hardReset b s).err = false := rfl
@[simp] theorem hardReset_ovr (b : Bool) : (hardReset b s).ovr = false := rfl
@[simp] theorem hardReset_kstate (b : Bool) : (hardReset b s).kstate = .none := rfl
@[simp] theorem hardReset_kalg (b : Bool) : (hardReset b s).kalg = .sha1 := rfl
@[simp] theorem hardReset_errcode (b : Bool) : (hardReset b s).errcode = none := rfl
@[simp] theorem hardReset_ie (b : Bool) : (hardReset b s).ie = 0 := rfl
@[simp] theorem hardReset_keyData (b : Bool) : (hardReset b s).keyData = 0 := rfl
@[simp] theorem hardReset_keyLen (b : Bool) : (hardReset b s).keyLen = 0 := rfl
@[simp] theorem hardReset_counterHi (b : Bool) : (hardReset b s).counterHi = 0 := rfl
@[simp] theorem hardReset_counterLo (b : Bool) : (hardReset b s).counterLo = 0 := rfl
@[simp] theorem hardReset_trunc (b : Bool) : (hardReset b s).trunc = 0 := rfl
@[simp] theorem hardReset_toff (b : Bool) : (hardReset b s).toff = 0 := rfl
@[simp] theorem hardReset_code (b : Bool) : (hardReset b s).code = 0 := rfl
@[simp] theorem hardReset_codeDigits (b : Bool) : (hardReset b s).codeDigits = 0 := rfl
@[simp] theorem hardReset_dig (b : Bool) : (hardReset b s).dig = [] := rfl
@[simp] theorem hardReset_key (b : Bool) : (hardReset b s).key = [] := rfl
@[simp] theorem hardReset_pending (b : Bool) : (hardReset b s).pending = none := rfl
@[simp] theorem hardReset_resetLine (b : Bool) : (hardReset b s).resetLine = b := rfl
@[simp] theorem hardReset_events (b : Bool) : (hardReset b s).events = s.events := rfl
@[simp] theorem hardReset_rdata (b : Bool) : (hardReset b s).rdata = s.rdata := rfl
@[simp] theorem hardReset_draws (b : Bool) : (hardReset b s).draws = s.draws := rfl

/-! ### softReset -/

@[simp] theorem softReset_busy : (softReset s).busy = false := rfl
@[simp] theorem softReset_done : (softReset s).done = true := rfl
@[simp] theorem softReset_err : (softReset s).err = false := rfl
@[simp] theorem softReset_ovr : (softReset s).ovr = false := rfl
@[simp] theorem softReset_kstate : (softReset s).kstate = .none := rfl
@[simp] theorem softReset_kalg : (softReset s).kalg = .sha1 := rfl
@[simp] theorem softReset_errcode : (softReset s).errcode = none := rfl
@[simp] theorem softReset_ie : (softReset s).ie = 0 := rfl
@[simp] theorem softReset_keyData : (softReset s).keyData = 0 := rfl
@[simp] theorem softReset_keyLen : (softReset s).keyLen = 0 := rfl
@[simp] theorem softReset_counterHi : (softReset s).counterHi = 0 := rfl
@[simp] theorem softReset_counterLo : (softReset s).counterLo = 0 := rfl
@[simp] theorem softReset_trunc : (softReset s).trunc = 0 := rfl
@[simp] theorem softReset_toff : (softReset s).toff = 0 := rfl
@[simp] theorem softReset_code : (softReset s).code = 0 := rfl
@[simp] theorem softReset_codeDigits : (softReset s).codeDigits = 0 := rfl
@[simp] theorem softReset_dig : (softReset s).dig = [] := rfl
@[simp] theorem softReset_key : (softReset s).key = [] := rfl
@[simp] theorem softReset_pending : (softReset s).pending = none := rfl
@[simp] theorem softReset_resetLine : (softReset s).resetLine = s.resetLine := rfl
@[simp] theorem softReset_events : (softReset s).events = s.events := rfl
@[simp] theorem softReset_rdata : (softReset s).rdata = s.rdata := rfl
@[simp] theorem softReset_draws : (softReset s).draws = s.draws := rfl

/-! ### beginKey -/

@[simp] theorem beginKey_busy (a : Alg) : (beginKey a s).busy = s.busy := rfl
@[simp] theorem beginKey_done (a : Alg) : (beginKey a s).done = s.done := rfl
@[simp] theorem beginKey_err (a : Alg) : (beginKey a s).err = s.err := rfl
@[simp] theorem beginKey_ovr (a : Alg) : (beginKey a s).ovr = s.ovr := rfl
@[simp] theorem beginKey_kstate (a : Alg) : (beginKey a s).kstate = .loading := rfl
@[simp] theorem beginKey_kalg (a : Alg) : (beginKey a s).kalg = a := rfl
@[simp] theorem beginKey_errcode (a : Alg) : (beginKey a s).errcode = s.errcode := rfl
@[simp] theorem beginKey_ie (a : Alg) : (beginKey a s).ie = s.ie := rfl
@[simp] theorem beginKey_keyData (a : Alg) : (beginKey a s).keyData = s.keyData := rfl
@[simp] theorem beginKey_keyLen (a : Alg) : (beginKey a s).keyLen = 0 := rfl
@[simp] theorem beginKey_counterHi (a : Alg) : (beginKey a s).counterHi = s.counterHi := rfl
@[simp] theorem beginKey_counterLo (a : Alg) : (beginKey a s).counterLo = s.counterLo := rfl
@[simp] theorem beginKey_trunc (a : Alg) : (beginKey a s).trunc = s.trunc := rfl
@[simp] theorem beginKey_toff (a : Alg) : (beginKey a s).toff = s.toff := rfl
@[simp] theorem beginKey_code (a : Alg) : (beginKey a s).code = s.code := rfl
@[simp] theorem beginKey_codeDigits (a : Alg) : (beginKey a s).codeDigits = s.codeDigits := rfl
@[simp] theorem beginKey_dig (a : Alg) : (beginKey a s).dig = s.dig := rfl
@[simp] theorem beginKey_key (a : Alg) : (beginKey a s).key = [] := rfl
@[simp] theorem beginKey_pending (a : Alg) : (beginKey a s).pending = s.pending := rfl
@[simp] theorem beginKey_resetLine (a : Alg) : (beginKey a s).resetLine = s.resetLine := rfl
@[simp] theorem beginKey_events (a : Alg) : (beginKey a s).events = s.events := rfl
@[simp] theorem beginKey_rdata (a : Alg) : (beginKey a s).rdata = s.rdata := rfl
@[simp] theorem beginKey_draws (a : Alg) : (beginKey a s).draws = s.draws := rfl

/-! ### appendKey -/

@[simp] theorem appendKey_busy (nb : Nat) (p : Pending) : (appendKey nb p s).busy = s.busy := rfl
@[simp] theorem appendKey_done (nb : Nat) (p : Pending) : (appendKey nb p s).done = s.done := rfl
@[simp] theorem appendKey_err (nb : Nat) (p : Pending) : (appendKey nb p s).err = s.err := rfl
@[simp] theorem appendKey_ovr (nb : Nat) (p : Pending) : (appendKey nb p s).ovr = s.ovr := rfl
@[simp] theorem appendKey_kstate (nb : Nat) (p : Pending) : (appendKey nb p s).kstate = s.kstate := rfl
@[simp] theorem appendKey_kalg (nb : Nat) (p : Pending) : (appendKey nb p s).kalg = s.kalg := rfl
@[simp] theorem appendKey_errcode (nb : Nat) (p : Pending) : (appendKey nb p s).errcode = s.errcode := rfl
@[simp] theorem appendKey_ie (nb : Nat) (p : Pending) : (appendKey nb p s).ie = s.ie := rfl
@[simp] theorem appendKey_keyData (nb : Nat) (p : Pending) : (appendKey nb p s).keyData = s.keyData := rfl
@[simp] theorem appendKey_keyLen (nb : Nat) (p : Pending) : (appendKey nb p s).keyLen = s.keyLen + BitVec.ofNat 32 nb := rfl
@[simp] theorem appendKey_counterHi (nb : Nat) (p : Pending) : (appendKey nb p s).counterHi = s.counterHi := rfl
@[simp] theorem appendKey_counterLo (nb : Nat) (p : Pending) : (appendKey nb p s).counterLo = s.counterLo := rfl
@[simp] theorem appendKey_trunc (nb : Nat) (p : Pending) : (appendKey nb p s).trunc = s.trunc := rfl
@[simp] theorem appendKey_toff (nb : Nat) (p : Pending) : (appendKey nb p s).toff = s.toff := rfl
@[simp] theorem appendKey_code (nb : Nat) (p : Pending) : (appendKey nb p s).code = s.code := rfl
@[simp] theorem appendKey_codeDigits (nb : Nat) (p : Pending) : (appendKey nb p s).codeDigits = s.codeDigits := rfl
@[simp] theorem appendKey_dig (nb : Nat) (p : Pending) : (appendKey nb p s).dig = s.dig := rfl
@[simp] theorem appendKey_key (nb : Nat) (p : Pending) : (appendKey nb p s).key = s.key ++ keyBytes p.kd nb := rfl
@[simp] theorem appendKey_pending (nb : Nat) (p : Pending) : (appendKey nb p s).pending = s.pending := rfl
@[simp] theorem appendKey_resetLine (nb : Nat) (p : Pending) : (appendKey nb p s).resetLine = s.resetLine := rfl
@[simp] theorem appendKey_events (nb : Nat) (p : Pending) : (appendKey nb p s).events = s.events := rfl
@[simp] theorem appendKey_rdata (nb : Nat) (p : Pending) : (appendKey nb p s).rdata = s.rdata := rfl
@[simp] theorem appendKey_draws (nb : Nat) (p : Pending) : (appendKey nb p s).draws = s.draws := rfl

/-! ### endKey -/

@[simp] theorem endKey_busy : (endKey s).busy = s.busy := rfl
@[simp] theorem endKey_done : (endKey s).done = s.done := rfl
@[simp] theorem endKey_err : (endKey s).err = s.err := rfl
@[simp] theorem endKey_ovr : (endKey s).ovr = s.ovr := rfl
@[simp] theorem endKey_kstate : (endKey s).kstate = .ready := rfl
@[simp] theorem endKey_kalg : (endKey s).kalg = s.kalg := rfl
@[simp] theorem endKey_errcode : (endKey s).errcode = s.errcode := rfl
@[simp] theorem endKey_ie : (endKey s).ie = s.ie := rfl
@[simp] theorem endKey_keyData : (endKey s).keyData = s.keyData := rfl
@[simp] theorem endKey_keyLen : (endKey s).keyLen = s.keyLen := rfl
@[simp] theorem endKey_counterHi : (endKey s).counterHi = s.counterHi := rfl
@[simp] theorem endKey_counterLo : (endKey s).counterLo = s.counterLo := rfl
@[simp] theorem endKey_trunc : (endKey s).trunc = s.trunc := rfl
@[simp] theorem endKey_toff : (endKey s).toff = s.toff := rfl
@[simp] theorem endKey_code : (endKey s).code = s.code := rfl
@[simp] theorem endKey_codeDigits : (endKey s).codeDigits = s.codeDigits := rfl
@[simp] theorem endKey_dig : (endKey s).dig = s.dig := rfl
@[simp] theorem endKey_key : (endKey s).key = s.key := rfl
@[simp] theorem endKey_pending : (endKey s).pending = s.pending := rfl
@[simp] theorem endKey_resetLine : (endKey s).resetLine = s.resetLine := rfl
@[simp] theorem endKey_events : (endKey s).events = s.events := rfl
@[simp] theorem endKey_rdata : (endKey s).rdata = s.rdata := rfl
@[simp] theorem endKey_draws : (endKey s).draws = s.draws := rfl

/-! ### storeDigest -/

@[simp] theorem storeDigest_busy (d : List Byte) : (storeDigest d s).busy = s.busy := rfl
@[simp] theorem storeDigest_done (d : List Byte) : (storeDigest d s).done = s.done := rfl
@[simp] theorem storeDigest_err (d : List Byte) : (storeDigest d s).err = s.err := rfl
@[simp] theorem storeDigest_ovr (d : List Byte) : (storeDigest d s).ovr = s.ovr := rfl
@[simp] theorem storeDigest_kstate (d : List Byte) : (storeDigest d s).kstate = s.kstate := rfl
@[simp] theorem storeDigest_kalg (d : List Byte) : (storeDigest d s).kalg = s.kalg := rfl
@[simp] theorem storeDigest_errcode (d : List Byte) : (storeDigest d s).errcode = s.errcode := rfl
@[simp] theorem storeDigest_ie (d : List Byte) : (storeDigest d s).ie = s.ie := rfl
@[simp] theorem storeDigest_keyData (d : List Byte) : (storeDigest d s).keyData = s.keyData := rfl
@[simp] theorem storeDigest_keyLen (d : List Byte) : (storeDigest d s).keyLen = s.keyLen := rfl
@[simp] theorem storeDigest_counterHi (d : List Byte) : (storeDigest d s).counterHi = s.counterHi := rfl
@[simp] theorem storeDigest_counterLo (d : List Byte) : (storeDigest d s).counterLo = s.counterLo := rfl
@[simp] theorem storeDigest_trunc (d : List Byte) : (storeDigest d s).trunc = s.trunc := rfl
@[simp] theorem storeDigest_toff (d : List Byte) : (storeDigest d s).toff = s.toff := rfl
@[simp] theorem storeDigest_code (d : List Byte) : (storeDigest d s).code = s.code := rfl
@[simp] theorem storeDigest_codeDigits (d : List Byte) : (storeDigest d s).codeDigits = s.codeDigits := rfl
@[simp] theorem storeDigest_dig (d : List Byte) : (storeDigest d s).dig = s.dig.writeBytes 0 (d ++ zeros (digLen - d.length)) := rfl
@[simp] theorem storeDigest_key (d : List Byte) : (storeDigest d s).key = s.key := rfl
@[simp] theorem storeDigest_pending (d : List Byte) : (storeDigest d s).pending = s.pending := rfl
@[simp] theorem storeDigest_resetLine (d : List Byte) : (storeDigest d s).resetLine = s.resetLine := rfl
@[simp] theorem storeDigest_events (d : List Byte) : (storeDigest d s).events = s.events := rfl
@[simp] theorem storeDigest_rdata (d : List Byte) : (storeDigest d s).rdata = s.rdata := rfl
@[simp] theorem storeDigest_draws (d : List Byte) : (storeDigest d s).draws = s.draws := rfl

/-! ### reduceTo -/

@[simp] theorem reduceTo_busy (t : BitVec 31) (n : Nat) : (reduceTo t n s).busy = s.busy := rfl
@[simp] theorem reduceTo_done (t : BitVec 31) (n : Nat) : (reduceTo t n s).done = s.done := rfl
@[simp] theorem reduceTo_err (t : BitVec 31) (n : Nat) : (reduceTo t n s).err = s.err := rfl
@[simp] theorem reduceTo_ovr (t : BitVec 31) (n : Nat) : (reduceTo t n s).ovr = s.ovr := rfl
@[simp] theorem reduceTo_kstate (t : BitVec 31) (n : Nat) : (reduceTo t n s).kstate = s.kstate := rfl
@[simp] theorem reduceTo_kalg (t : BitVec 31) (n : Nat) : (reduceTo t n s).kalg = s.kalg := rfl
@[simp] theorem reduceTo_errcode (t : BitVec 31) (n : Nat) : (reduceTo t n s).errcode = s.errcode := rfl
@[simp] theorem reduceTo_ie (t : BitVec 31) (n : Nat) : (reduceTo t n s).ie = s.ie := rfl
@[simp] theorem reduceTo_keyData (t : BitVec 31) (n : Nat) : (reduceTo t n s).keyData = s.keyData := rfl
@[simp] theorem reduceTo_keyLen (t : BitVec 31) (n : Nat) : (reduceTo t n s).keyLen = s.keyLen := rfl
@[simp] theorem reduceTo_counterHi (t : BitVec 31) (n : Nat) : (reduceTo t n s).counterHi = s.counterHi := rfl
@[simp] theorem reduceTo_counterLo (t : BitVec 31) (n : Nat) : (reduceTo t n s).counterLo = s.counterLo := rfl
@[simp] theorem reduceTo_trunc (t : BitVec 31) (n : Nat) : (reduceTo t n s).trunc = s.trunc := rfl
@[simp] theorem reduceTo_toff (t : BitVec 31) (n : Nat) : (reduceTo t n s).toff = s.toff := rfl
@[simp] theorem reduceTo_code (t : BitVec 31) (n : Nat) : (reduceTo t n s).code = BitVec.ofNat 32 (red t n) := rfl
@[simp] theorem reduceTo_codeDigits (t : BitVec 31) (n : Nat) : (reduceTo t n s).codeDigits = BitVec.ofNat 8 n := rfl
@[simp] theorem reduceTo_dig (t : BitVec 31) (n : Nat) : (reduceTo t n s).dig = s.dig := rfl
@[simp] theorem reduceTo_key (t : BitVec 31) (n : Nat) : (reduceTo t n s).key = s.key := rfl
@[simp] theorem reduceTo_pending (t : BitVec 31) (n : Nat) : (reduceTo t n s).pending = s.pending := rfl
@[simp] theorem reduceTo_resetLine (t : BitVec 31) (n : Nat) : (reduceTo t n s).resetLine = s.resetLine := rfl
@[simp] theorem reduceTo_events (t : BitVec 31) (n : Nat) : (reduceTo t n s).events = s.events := rfl
@[simp] theorem reduceTo_rdata (t : BitVec 31) (n : Nat) : (reduceTo t n s).rdata = s.rdata := rfl
@[simp] theorem reduceTo_draws (t : BitVec 31) (n : Nat) : (reduceTo t n s).draws = s.draws := rfl

/-! ### writeStatus -/

@[simp] theorem writeStatus_busy (v : Word) : (writeStatus v s).busy = s.busy := rfl
@[simp] theorem writeStatus_done (v : Word) : (writeStatus v s).done = (s.done && !v.getLsbD 1) := rfl
@[simp] theorem writeStatus_err (v : Word) : (writeStatus v s).err = s.err := rfl
@[simp] theorem writeStatus_ovr (v : Word) : (writeStatus v s).ovr = (s.ovr && !v.getLsbD 3) := rfl
@[simp] theorem writeStatus_kstate (v : Word) : (writeStatus v s).kstate = s.kstate := rfl
@[simp] theorem writeStatus_kalg (v : Word) : (writeStatus v s).kalg = s.kalg := rfl
@[simp] theorem writeStatus_errcode (v : Word) : (writeStatus v s).errcode = s.errcode := rfl
@[simp] theorem writeStatus_ie (v : Word) : (writeStatus v s).ie = s.ie := rfl
@[simp] theorem writeStatus_keyData (v : Word) : (writeStatus v s).keyData = s.keyData := rfl
@[simp] theorem writeStatus_keyLen (v : Word) : (writeStatus v s).keyLen = s.keyLen := rfl
@[simp] theorem writeStatus_counterHi (v : Word) : (writeStatus v s).counterHi = s.counterHi := rfl
@[simp] theorem writeStatus_counterLo (v : Word) : (writeStatus v s).counterLo = s.counterLo := rfl
@[simp] theorem writeStatus_trunc (v : Word) : (writeStatus v s).trunc = s.trunc := rfl
@[simp] theorem writeStatus_toff (v : Word) : (writeStatus v s).toff = s.toff := rfl
@[simp] theorem writeStatus_code (v : Word) : (writeStatus v s).code = s.code := rfl
@[simp] theorem writeStatus_codeDigits (v : Word) : (writeStatus v s).codeDigits = s.codeDigits := rfl
@[simp] theorem writeStatus_dig (v : Word) : (writeStatus v s).dig = s.dig := rfl
@[simp] theorem writeStatus_key (v : Word) : (writeStatus v s).key = s.key := rfl
@[simp] theorem writeStatus_pending (v : Word) : (writeStatus v s).pending = s.pending := rfl
@[simp] theorem writeStatus_resetLine (v : Word) : (writeStatus v s).resetLine = s.resetLine := rfl
@[simp] theorem writeStatus_events (v : Word) : (writeStatus v s).events = s.events := rfl
@[simp] theorem writeStatus_rdata (v : Word) : (writeStatus v s).rdata = s.rdata := rfl
@[simp] theorem writeStatus_draws (v : Word) : (writeStatus v s).draws = s.draws := rfl

/-! ### writeIe -/

@[simp] theorem writeIe_busy (v : Word) : (writeIe v s).busy = s.busy := rfl
@[simp] theorem writeIe_done (v : Word) : (writeIe v s).done = s.done := rfl
@[simp] theorem writeIe_err (v : Word) : (writeIe v s).err = s.err := rfl
@[simp] theorem writeIe_ovr (v : Word) : (writeIe v s).ovr = s.ovr := rfl
@[simp] theorem writeIe_kstate (v : Word) : (writeIe v s).kstate = s.kstate := rfl
@[simp] theorem writeIe_kalg (v : Word) : (writeIe v s).kalg = s.kalg := rfl
@[simp] theorem writeIe_errcode (v : Word) : (writeIe v s).errcode = s.errcode := rfl
@[simp] theorem writeIe_ie (v : Word) : (writeIe v s).ie = v.setWidth 3 := rfl
@[simp] theorem writeIe_keyData (v : Word) : (writeIe v s).keyData = s.keyData := rfl
@[simp] theorem writeIe_keyLen (v : Word) : (writeIe v s).keyLen = s.keyLen := rfl
@[simp] theorem writeIe_counterHi (v : Word) : (writeIe v s).counterHi = s.counterHi := rfl
@[simp] theorem writeIe_counterLo (v : Word) : (writeIe v s).counterLo = s.counterLo := rfl
@[simp] theorem writeIe_trunc (v : Word) : (writeIe v s).trunc = s.trunc := rfl
@[simp] theorem writeIe_toff (v : Word) : (writeIe v s).toff = s.toff := rfl
@[simp] theorem writeIe_code (v : Word) : (writeIe v s).code = s.code := rfl
@[simp] theorem writeIe_codeDigits (v : Word) : (writeIe v s).codeDigits = s.codeDigits := rfl
@[simp] theorem writeIe_dig (v : Word) : (writeIe v s).dig = s.dig := rfl
@[simp] theorem writeIe_key (v : Word) : (writeIe v s).key = s.key := rfl
@[simp] theorem writeIe_pending (v : Word) : (writeIe v s).pending = s.pending := rfl
@[simp] theorem writeIe_resetLine (v : Word) : (writeIe v s).resetLine = s.resetLine := rfl
@[simp] theorem writeIe_events (v : Word) : (writeIe v s).events = s.events := rfl
@[simp] theorem writeIe_rdata (v : Word) : (writeIe v s).rdata = s.rdata := rfl
@[simp] theorem writeIe_draws (v : Word) : (writeIe v s).draws = s.draws := rfl

/-! ### writeDigest -/

@[simp] theorem writeDigest_busy (i : Fin 16) (v : Word) : (writeDigest i v s).busy = s.busy := rfl
@[simp] theorem writeDigest_done (i : Fin 16) (v : Word) : (writeDigest i v s).done = s.done := rfl
@[simp] theorem writeDigest_err (i : Fin 16) (v : Word) : (writeDigest i v s).err = s.err := rfl
@[simp] theorem writeDigest_ovr (i : Fin 16) (v : Word) : (writeDigest i v s).ovr = s.ovr := rfl
@[simp] theorem writeDigest_kstate (i : Fin 16) (v : Word) : (writeDigest i v s).kstate = s.kstate := rfl
@[simp] theorem writeDigest_kalg (i : Fin 16) (v : Word) : (writeDigest i v s).kalg = s.kalg := rfl
@[simp] theorem writeDigest_errcode (i : Fin 16) (v : Word) : (writeDigest i v s).errcode = s.errcode := rfl
@[simp] theorem writeDigest_ie (i : Fin 16) (v : Word) : (writeDigest i v s).ie = s.ie := rfl
@[simp] theorem writeDigest_keyData (i : Fin 16) (v : Word) : (writeDigest i v s).keyData = s.keyData := rfl
@[simp] theorem writeDigest_keyLen (i : Fin 16) (v : Word) : (writeDigest i v s).keyLen = s.keyLen := rfl
@[simp] theorem writeDigest_counterHi (i : Fin 16) (v : Word) : (writeDigest i v s).counterHi = s.counterHi := rfl
@[simp] theorem writeDigest_counterLo (i : Fin 16) (v : Word) : (writeDigest i v s).counterLo = s.counterLo := rfl
@[simp] theorem writeDigest_trunc (i : Fin 16) (v : Word) : (writeDigest i v s).trunc = s.trunc := rfl
@[simp] theorem writeDigest_toff (i : Fin 16) (v : Word) : (writeDigest i v s).toff = s.toff := rfl
@[simp] theorem writeDigest_code (i : Fin 16) (v : Word) : (writeDigest i v s).code = s.code := rfl
@[simp] theorem writeDigest_codeDigits (i : Fin 16) (v : Word) : (writeDigest i v s).codeDigits = s.codeDigits := rfl
@[simp] theorem writeDigest_dig (i : Fin 16) (v : Word) : (writeDigest i v s).dig = s.dig.writeBytes (4 * i.val) (toBE 4 v.toNat) := rfl
@[simp] theorem writeDigest_key (i : Fin 16) (v : Word) : (writeDigest i v s).key = s.key := rfl
@[simp] theorem writeDigest_pending (i : Fin 16) (v : Word) : (writeDigest i v s).pending = s.pending := rfl
@[simp] theorem writeDigest_resetLine (i : Fin 16) (v : Word) : (writeDigest i v s).resetLine = s.resetLine := rfl
@[simp] theorem writeDigest_events (i : Fin 16) (v : Word) : (writeDigest i v s).events = s.events := rfl
@[simp] theorem writeDigest_rdata (i : Fin 16) (v : Word) : (writeDigest i v s).rdata = s.rdata := rfl
@[simp] theorem writeDigest_draws (i : Fin 16) (v : Word) : (writeDigest i v s).draws = s.draws := rfl

/-! ### raise: the key fields change for E_KEYLEN only (R302) -/

@[simp] theorem raise_busy (e : ErrCode) : (raise e s).busy = s.busy := by
  unfold raise; split <;> rfl
@[simp] theorem raise_done (e : ErrCode) : (raise e s).done = true := by
  unfold raise; split <;> rfl
@[simp] theorem raise_err (e : ErrCode) : (raise e s).err = true := by
  unfold raise; split <;> rfl
@[simp] theorem raise_ovr (e : ErrCode) : (raise e s).ovr = s.ovr := by
  unfold raise; split <;> rfl
@[simp] theorem raise_kstate (e : ErrCode) : (raise e s).kstate = if e = .eKeyLen then .none else s.kstate := by
  unfold raise; split <;> rfl
@[simp] theorem raise_kalg (e : ErrCode) : (raise e s).kalg = if e = .eKeyLen then .sha1 else s.kalg := by
  unfold raise; split <;> rfl
@[simp] theorem raise_errcode (e : ErrCode) : (raise e s).errcode = some e := by
  unfold raise; split <;> rfl
@[simp] theorem raise_ie (e : ErrCode) : (raise e s).ie = s.ie := by
  unfold raise; split <;> rfl
@[simp] theorem raise_keyData (e : ErrCode) : (raise e s).keyData = s.keyData := by
  unfold raise; split <;> rfl
@[simp] theorem raise_keyLen (e : ErrCode) : (raise e s).keyLen = if e = .eKeyLen then 0 else s.keyLen := by
  unfold raise; split <;> rfl
@[simp] theorem raise_counterHi (e : ErrCode) : (raise e s).counterHi = s.counterHi := by
  unfold raise; split <;> rfl
@[simp] theorem raise_counterLo (e : ErrCode) : (raise e s).counterLo = s.counterLo := by
  unfold raise; split <;> rfl
@[simp] theorem raise_trunc (e : ErrCode) : (raise e s).trunc = s.trunc := by
  unfold raise; split <;> rfl
@[simp] theorem raise_toff (e : ErrCode) : (raise e s).toff = s.toff := by
  unfold raise; split <;> rfl
@[simp] theorem raise_code (e : ErrCode) : (raise e s).code = s.code := by
  unfold raise; split <;> rfl
@[simp] theorem raise_codeDigits (e : ErrCode) : (raise e s).codeDigits = s.codeDigits := by
  unfold raise; split <;> rfl
@[simp] theorem raise_dig (e : ErrCode) : (raise e s).dig = s.dig := by
  unfold raise; split <;> rfl
@[simp] theorem raise_key (e : ErrCode) : (raise e s).key = if e = .eKeyLen then [] else s.key := by
  unfold raise; split <;> rfl
@[simp] theorem raise_pending (e : ErrCode) : (raise e s).pending = s.pending := by
  unfold raise; split <;> rfl
@[simp] theorem raise_resetLine (e : ErrCode) : (raise e s).resetLine = s.resetLine := by
  unfold raise; split <;> rfl
@[simp] theorem raise_events (e : ErrCode) : (raise e s).events = s.events := by
  unfold raise; split <;> rfl
@[simp] theorem raise_rdata (e : ErrCode) : (raise e s).rdata = s.rdata := by
  unfold raise; split <;> rfl
@[simp] theorem raise_draws (e : ErrCode) : (raise e s).draws = s.draws := by
  unfold raise; split <;> rfl

/-- Every update keeps the latched counter's registers or clears them; the counter reads only the two registers. -/
theorem counter_congr (t : State) (hi : t.counterHi = s.counterHi) (lo : t.counterLo = s.counterLo) : counter t = counter s := by
  simp [counter, hi, lo]

end Sys2Proof.Machine
end

