-- ==== Sys2Proof/Laws/Ops.lean ====
section
/-! SUPPORT. One lemma for each shared operation that says everything it can do. -/

namespace Sys2Proof.Machine

/-! ### The truncation never leaves the digest (R202) -/

theorem dt_eq (alg : Alg) (d : List Byte) :
    dt (digestLen alg) d =
      some (dtOffset (digestLen alg) d, dtValue (dtOffset (digestLen alg) d).toNat d) := by
  have h : (dtOffset (digestLen alg) d).toNat < 16 := (dtOffset (digestLen alg) d).isLt
  have hl : 20 ≤ digestLen alg := by cases alg <;> decide
  simp only [dt]
  rw [if_neg (by omega)]

/-- The state after truncating a digest. -/
def truncated (alg : Alg) (d : List Byte) (s : State) : State :=
  { s with toff := dtOffset (digestLen alg) d, trunc := dtValue (dtOffset (digestLen alg) d).toNat d }

theorem truncateDigest_eq (alg : Alg) (d : List Byte) (s : State) :
    truncateDigest alg d s = .next (truncated alg d s) := by
  simp [truncateDigest, dt_eq, truncated]

/-! ### Completion effects -/

/-- The state a command's completion effect leaves, before BUSY falls. -/
def effectState (i : Instr) (p : Pending) (s : State) : State :=
  match i with
  | .nop => s
  | .sreset => s
  | .clrErr => clearError s
  | .keyBegin a => beginKey a s
  | .keyAppend nb => appendKey nb p s
  | .keyEnd => endKey s
  | .keyZero => discardKey s
  | .hmac => storeDigest (hmacOf p s) s
  | .trunc a => truncated a (s.dig.readBytes 0 (digestLen a)) s
  | .reduce n => reduceTo s.trunc n s
  | .derive n =>
    let t := truncated s.kalg (hmacOf p s) (storeDigest (hmacOf p s) s)
    reduceTo t.trunc n t

theorem deriveEffect_eq (n : Nat) (p : Pending) (s : State) :
    deriveEffect n p s = .next (effectState (.derive n) p s) := by
  simp [deriveEffect, truncateDigest_eq, effectState]

/-- Every command but SRESET is the command unit over its completion effect. -/
theorem exec_eq_command {i : Instr} (h : i ≠ .sreset) (s : State) :
    exec i s = command i (fun p t => .next (effectState i p t)) s := by
  cases i with
  | sreset => exact absurd rfl h
  | trunc a => simp only [exec, execTrunc, truncateDigest_eq]; rfl
  | derive n =>
    have : deriveEffect n = fun p t => .next (effectState (.derive n) p t) :=
      funext fun p => funext fun t => deriveEffect_eq n p t
    simp only [exec, execDerive, this]
  | _ => rfl

/-! ### The command unit -/

/-- R306: while BUSY = 1 the pending command completes. -/
theorem exec_pending {s : State} {p : Pending} (hb : s.busy = true) (hp : s.pending = some p)
    (hs : p.cmd ≠ .sreset) : exec p.cmd s = .next (finish (effectState p.cmd p s)) := by
  simp [exec_eq_command hs, command, hb, hp, complete]

/-- R303: while ERR = 1 a presented command other than CLR_ERR is discarded. -/
theorem exec_discarded {i : Instr} {s : State} (hs : i ≠ .sreset) (hb : s.busy = false) (he : s.err = true)
    (hc : i ≠ .clrErr) : exec i s = .next (discard s) := by
  simp [exec_eq_command hs, command, hb, he, hc]

/-- R302, R311: a presented command whose state check fails is rejected. -/
theorem exec_rejected {i : Instr} {s : State} {e : ErrCode} (hs : i ≠ .sreset) (hb : s.busy = false)
    (he : s.err = true → i = .clrErr) (hc : stateCheck i s = some e) : exec i s = .next (raise e s) := by
  have : ¬ (s.err = true ∧ i ≠ .clrErr) := fun h => h.2 (he h.1)
  simp only [exec_eq_command hs, command, hb, hc, if_neg this]
  simp

/-- R301: a presented command whose state check passes is accepted. -/
theorem exec_accepted {i : Instr} {s : State} (hs : i ≠ .sreset) (hb : s.busy = false)
    (he : s.err = true → i = .clrErr) (hc : stateCheck i s = none) : exec i s = .next (accept i s) := by
  have : ¬ (s.err = true ∧ i ≠ .clrErr) := fun h => h.2 (he h.1)
  simp only [exec_eq_command hs, command, hb, hc, if_neg this]
  simp

/-- When KEY_APPEND passes its state check (R311). -/
theorem stateCheck_keyAppend_eq_none {nb : Nat} {s : State} :
    stateCheck (.keyAppend nb) s = none ↔ s.kstate = .loading ∧ s.keyLen.toNat + nb ≤ maxKeyLen := by
  by_cases hk : s.kstate = .loading <;> by_cases hl : maxKeyLen < s.keyLen.toNat + nb <;>
    simp [stateCheck, needLoading, hk, -Nat.reducePow]

/-- A presented command passes every state check where R311's conditions hold. -/
theorem stateCheck_eq_none {i : Instr} {s : State}
    (hload : (∃ nb, i = .keyAppend nb) ∨ i = .keyEnd → s.kstate = .loading)
    (hready : i = .hmac ∨ (∃ n, i = .derive n) → s.kstate = .ready)
    (hlen : ∀ nb, i = .keyAppend nb → s.keyLen.toNat + nb ≤ maxKeyLen) : stateCheck i s = none := by
  cases i with
  | keyAppend nb => exact stateCheck_keyAppend_eq_none.2 ⟨hload (.inl ⟨nb, rfl⟩), hlen nb rfl⟩
  | keyEnd => simp [stateCheck, needLoading, hload (.inr rfl)]
  | hmac => simp [stateCheck, needReady, hready (.inl rfl)]
  | derive n => simp [stateCheck, needReady, hready (.inr ⟨n, rfl⟩)]
  | _ => rfl

/-- No state check fails with E_INTERNAL. -/
theorem stateCheck_ne_internal (i : Instr) (s : State) : stateCheck i s ≠ some .eInternal := by
  cases i <;> simp only [stateCheck, needReady, needLoading] <;> (repeat' split) <;> simp_all
  rintro rfl
  simp_all

/-- No word is rejected with E_INTERNAL. -/
theorem decode_ne_internal (w : Word) : decode w ≠ .error .eInternal := by
  unfold decode
  split
  · simp
  · split
    · simp
    · unfold decodeFields; split <;> (repeat' split) <;> simp

/-! ### Every command and every word is answered (R307, R89) -/

theorem exec_next (i : Instr) (s : State) : ∃ t, exec i s = .next t := by
  by_cases hs : i = .sreset
  · subst hs; exact ⟨_, rfl⟩
  rw [exec_eq_command hs]
  unfold command
  repeat' split
  all_goals exact ⟨_, rfl⟩

theorem present_next (w : Word) (s : State) : ∃ t, present w s = .next t := by
  unfold present
  repeat' split
  all_goals first | exact exec_next _ _ | exact ⟨_, rfl⟩

theorem engineStep_next (s : State) : ∃ t, engineStep s = .next t := by
  unfold engineStep
  repeat' split
  all_goals first | exact exec_next _ _ | exact ⟨_, rfl⟩

end Sys2Proof.Machine
end

