-- ==== Sys2Proof/Laws/Bus.lean ====
section
/-! SUPPORT. The register map and what one step makes of each kind of event, cited instead of unfolding `step`. -/

namespace Sys2Proof.Machine

/-! ### The register map (R22) -/

theorem regAt_offset (r : Reg) : regAt r.offset = some r := by
  cases r with
  | digest i => revert i; decide
  | _ => decide

theorem regAt_eq_some {off : BitVec 7} {r : Reg} : regAt off = some r ↔ r.offset = off := by
  constructor
  · intro h
    have := List.find?_some h
    simpa using this
  · rintro rfl
    exact regAt_offset r

@[simp] theorem target_offset (r : Reg) : target r.offset 4 = some r := by simp [target, regAt_offset]

theorem digest_offset (i : Fin 16) : (Reg.digest i).offset = BitVec.ofNat 7 (0x40 + 4 * i.val) := rfl

/-- An offset reaches a register exactly where it is aligned and not reserved (R62). -/
theorem regAt_isSome (off : BitVec 7) :
    (regAt off).isSome = (off.toNat % 4 == 0 && !(0x30 ≤ off.toNat && off.toNat < 0x40)) := by
  have h : ∀ n < 128, (regAt (BitVec.ofNat 7 n)).isSome = (n % 4 == 0 && !(0x30 ≤ n && n < 0x40)) := by decide
  have := h off.toNat off.isLt
  simpa using this

/-- Where a transaction is answered with a bus error (R62). -/
theorem target_eq_none {off : BitVec 7} {width : Nat} :
    target off width = none ↔ width ≠ 4 ∨ off.toNat % 4 ≠ 0 ∨ off ∈ [0x30#7, 0x34#7, 0x38#7, 0x3C#7] := by
  have h : ∀ n < 128, (regAt (BitVec.ofNat 7 n)).isNone =
      (decide (n % 4 ≠ 0) || decide (BitVec.ofNat 7 n ∈ [0x30#7, 0x34#7, 0x38#7, 0x3C#7])) := by decide
  have h := h off.toNat off.isLt
  simp only [BitVec.ofNat_toNat, BitVec.setWidth_eq] at h
  unfold target
  split
  · next hw => rw [← Option.isNone_iff_eq_none, h]; simp [hw]
  · next hw => simp [hw]

/-- The transactions that reach a register are 32 bits wide, at its offset. -/
theorem target_eq_some {off : BitVec 7} {width : Nat} {r : Reg} :
    target off width = some r ↔ width = 4 ∧ r.offset = off := by
  unfold target
  split
  · next hw => simp [hw, regAt_eq_some]
  · next hw => simp [hw]

/-- The aligned offsets from 0x40 on are those of the digest registers (R38). -/
theorem exists_digest_of_offset {off : BitVec 7} (h : 0x40 ≤ off.toNat) (ha : off.toNat % 4 = 0) :
    ∃ i : Fin 16, regAt off = some (.digest i) := by
  have := off.isLt
  refine ⟨⟨(off.toNat - 0x40) / 4, by omega⟩, regAt_eq_some.2 ?_⟩
  apply BitVec.eq_of_toNat_eq
  simp [Reg.offset]
  omega

/-- The addresses of the window (R60). -/
theorem inWindow_eq_true {addr : Nat} :
    inWindow addr = true ↔ Config.base ≤ addr ∧ addr < Config.base + 0x80 := by
  rw [inWindow, Bool.and_eq_true, decide_eq_true_eq, decide_eq_true_eq]; rfl

/-! ### What a read and a write leave alone -/

theorem readReg_frame (r : Reg) (s : State) :
    ∃ v d, readReg r s = { s with rdata := some v, draws := d } := by
  unfold readReg
  split
  · exact ⟨_, _, rfl⟩
  · exact ⟨_, s.draws, rfl⟩

theorem writeReg_frame (r : Reg) (v : Word) (s : State) :
    ∃ d o e kd hi lo t m, writeReg r v s = { s with
      done := d, ovr := o, ie := e, keyData := kd, counterHi := hi, counterLo := lo, trunc := t, dig := m } := by
  cases r <;> simp only [writeReg, writeOperand, writeStatus, writeIe, writeDigest, drop] <;> (try split) <;>
    exact ⟨_, _, _, _, _, _, _, _, rfl⟩

/-! ### Steps by event -/

variable {s : State} {rest : List Event}

theorem step_nil (he : s.events = []) : step s = engineStep s := by simp [step, nextStep, he]

theorem step_cons {e : Event} (he : s.events = e :: rest) : step s = runEvent e { s with events := rest } := by
  simp [step, nextStep, he]

/-- R61: a 32-bit read with the reset input released reaches its register. -/
theorem step_read {off : BitVec 7} {r : Reg} (hl : s.resetLine = false) (he : s.events = .read off 4 :: rest)
    (hr : regAt off = some r) : step s = .next (readReg r { s with events := rest }) := by
  simp [step_cons he, runEvent, hostRead, hl, target, hr]

/-- R65: a 32-bit write to a register other than CMD. -/
theorem step_write {off : BitVec 7} {r : Reg} {v : Word} (hl : s.resetLine = false)
    (he : s.events = .write off 4 v :: rest) (hr : regAt off = some r) (hc : r ≠ .cmd) :
    step s = .next (writeReg r v { s with events := rest }) := by
  simp [step_cons he, runEvent, hostWrite, hl, target, hr, hc]

/-- R24: a 32-bit write to CMD presents its word. -/
theorem step_command {w : Word} (hl : s.resetLine = false) (he : s.events = .write 0x04#7 4 w :: rest) :
    step s = present w { s with events := rest } := by
  have hr : regAt 0x04#7 = some .cmd := by decide
  simp [step_cons he, runEvent, hostWrite, hl, target, hr]

/-- R306: the engine's event. -/
theorem step_engine (he : s.events = .engine :: rest) : step s = engineStep { s with events := rest } := by
  simp [step_cons he, runEvent]

/-! ### Presenting a word (R300) -/

theorem present_sreset (s : State) : present 0x00000001#32 s = exec .sreset s := by simp [present, sresetWord]

theorem present_busy {w : Word} (hb : s.busy = true) (hw : w ≠ 0x00000001#32) : present w s = .next (drop s) := by
  simp [present, sresetWord, hw, hb]

theorem present_err {w : Word} (hb : s.busy = false) (he : s.err = true) (hw : w ≠ 0x00000001#32)
    (hc : w ≠ 0x00000002#32) : present w s = .next (discard s) := by
  simp [present, sresetWord, clrErrWord, hw, hb, he, hc]

theorem present_decoded {w : Word} {i : Instr} (hb : s.busy = false) (he : s.err = true → i = .clrErr)
    (hd : decode w = .ok i) : present w s = exec i s := by
  unfold present
  split
  · next hw =>
    subst hw
    rw [show decode sresetWord = .ok .sreset by decide] at hd
    cases hd; rfl
  · have : ¬ (s.err = true ∧ w ≠ clrErrWord) := fun h => by
      have hi := he h.1
      subst hi
      exact h.2 (by simpa [clrErrWord] using decode_clrErr hd)
    simp only [hb, if_neg this, hd]
    simp

theorem present_undecoded {w : Word} {e : ErrCode} (hb : s.busy = false) (he : s.err = false)
    (hd : decode w = .error e) : present w s = .next (raise e s) := by
  unfold present
  split
  · next hw =>
    subst hw
    rw [show decode sresetWord = .ok .sreset by decide] at hd
    cases hd
  · simp [hb, he, hd]

end Sys2Proof.Machine
end

