-- ==== Sys2Proof/Laws/Hash.lean ====
section
/-! SUPPORT. Byte sequences, padding and the lengths of digests (spec/42_hmac.md R140 to R152). -/

namespace Sys2Proof.Machine

@[simp] theorem length_toBE (n v : Nat) : (toBE n v).length = n := by
  induction n with
  | zero => rfl
  | succ n ih => simp [toBE, ih]

@[simp] theorem length_zeros (k : Nat) : (zeros k).length = k := by simp [zeros]

@[simp] theorem length_rep (x : Byte) (k : Nat) : (rep x k).length = k := by simp [rep]

@[simp] theorem length_xorBytes (a b : List Byte) : (xorBytes a b).length = min a.length b.length := by
  simp [xorBytes]

@[simp] theorem length_groups (n count : Nat) (b : List Byte) : (groups n count b).length = count := by
  induction count generalizing b with
  | zero => rfl
  | succ c ih => simp [groups, ih]

theorem blockLen_pos (a : Alg) : 0 < blockLen a := by cases a <;> decide

theorem digestLen_le_blockLen (a : Alg) : digestLen a ≤ blockLen a := by cases a <;> decide

theorem digestLen_le_digLen (a : Alg) : digestLen a ≤ digLen := by cases a <;> decide

/-- The digest of every message has the algorithm's length (R140). -/
theorem length_hash (a : Alg) (m : List Byte) : (hash a m).length = digestLen a := by
  cases a <;> simp [hash, sha1, sha256, sha512, Sha2Vars.bytes, digestLen]

theorem length_hmac (a : Alg) (k m : List Byte) : (hmac a k m).length = digestLen a := length_hash a _

theorem length_hmacKey (a : Alg) (k : List Byte) : (hmacKey a k).length = blockLen a := by
  have hl := digestLen_le_blockLen a
  unfold hmacKey
  split
  · simp [length_hash]; omega
  · simp; omega

theorem length_padded (a : Alg) (m : List Byte) :
    (padded a m).length = m.length + 1 + padZeros a m.length + lengthFieldLen a := by
  simp [padded]; omega

/-- The zeros fill the last block (R143, R144). -/
theorem padZeros_fills (a : Alg) (len : Nat) : (len + 1 + padZeros a len + lengthFieldLen a) % blockLen a = 0 := by
  cases a <;> simp only [padZeros, blockLen, lengthFieldLen] <;> omega

/-- No fewer zeros do (R143, R144). -/
theorem padZeros_least {a : Alg} {len k : Nat} (h : (len + 1 + k + lengthFieldLen a) % blockLen a = 0) :
    padZeros a len ≤ k := by
  cases a <;> simp only [padZeros, blockLen, lengthFieldLen] at h ⊢ <;> omega

/-- The number of blocks of a padded message. -/
theorem length_messageBlocks (a : Alg) (w : Nat) (m : List Byte) :
    (messageBlocks a w m).length = (m.length + 1 + padZeros a m.length + lengthFieldLen a) / blockLen a := by
  simp [messageBlocks, length_padded]

/-- be of one more byte at the end. -/
theorem be_append_byte (b : List Byte) (x : Byte) : be (b ++ [x]) = be b * 256 + x.toNat := by
  simp [be]

end Sys2Proof.Machine
end

