-- ==== Sys2Proof/Laws/Memory.lean ====
section
/-! SUPPORT. The digest buffer: read after write, writes leave other bytes alone, and every operation keeps the
canonical form. -/

namespace Sys2Proof.Machine

/-! ### The canonical form -/

theorem Memory.wfFrom_cons {c : Host.Cell} {rest : Memory} {lo : Nat} :
    Memory.wfFrom lo (c :: rest) = true ↔
      lo ≤ c.1 ∧ c.1 < digLen ∧ c.2 ≠ unlisted ∧ Memory.wfFrom (c.1 + 1) rest = true := by
  simp [Memory.wfFrom, and_assoc]

theorem Memory.wfFrom_mono {m : Memory} {lo lo' : Nat} (h : m.wfFrom lo = true) (hle : lo' ≤ lo) :
    m.wfFrom lo' = true := by
  cases m with
  | nil => rfl
  | cons c rest =>
    obtain ⟨h1, h2, h3, h4⟩ := Memory.wfFrom_cons.1 h
    exact Memory.wfFrom_cons.2 ⟨by omega, h2, h3, h4⟩

theorem Memory.entry_append_wfFrom {m : Memory} {lo i : Nat} (b : Byte) (h : m.wfFrom (i + 1) = true)
    (hlo : lo ≤ i) (hi : i < digLen) : Memory.wfFrom lo (Memory.entry i b ++ m) = true := by
  unfold Memory.entry
  split
  · exact Memory.wfFrom_mono h (by omega)
  · next hb => exact Memory.wfFrom_cons.2 ⟨hlo, hi, hb, h⟩

theorem Memory.write_wfFrom {m : Memory} {lo i : Nat} (b : Byte) (h : m.wfFrom lo = true) (hlo : lo ≤ i)
    (hi : i < digLen) : (m.write i b).wfFrom lo = true := by
  induction m generalizing lo with
  | nil => simpa [Memory.write] using Memory.entry_append_wfFrom (m := []) b rfl hlo hi
  | cons c rest ih =>
    obtain ⟨h1, h2, h3, h4⟩ := Memory.wfFrom_cons.1 h
    simp only [Memory.write]
    split
    · exact Memory.entry_append_wfFrom b (Memory.wfFrom_cons.2 ⟨by omega, h2, h3, h4⟩) hlo hi
    · split
      · next e => exact Memory.entry_append_wfFrom b (by rw [← e]; exact h4) hlo hi
      · exact Memory.wfFrom_cons.2 ⟨h1, h2, h3, ih h4 (by omega)⟩

theorem Memory.write_wf {m : Memory} {i : Nat} (b : Byte) (h : m.wf = true) (hi : i < digLen) :
    (m.write i b).wf = true :=
  Memory.write_wfFrom b h (Nat.zero_le i) hi

theorem Memory.writeBytes_wf {m : Memory} {i : Nat} (bs : List Byte) (h : m.wf = true)
    (hi : i + bs.length ≤ digLen) : (m.writeBytes i bs).wf = true := by
  induction bs generalizing m i with
  | nil => exact h
  | cons x rest ih =>
    simp only [List.length_cons] at hi
    exact ih (Memory.write_wf x h (by omega)) (by omega)

/-! ### Reads -/

theorem Memory.read_of_wfFrom {m : Memory} {lo i : Nat} (h : m.wfFrom lo = true) (hi : i < lo) :
    m.read i = unlisted := by
  induction m generalizing lo with
  | nil => rfl
  | cons c rest ih =>
    obtain ⟨h1, -, -, h4⟩ := Memory.wfFrom_cons.1 h
    simp only [Memory.read, show c.1 ≠ i by omega, if_false]
    exact ih h4 (by omega)

/-- Nothing is listed at the buffer's length or beyond. -/
theorem Memory.read_ge {m : Memory} {i : Nat} (h : m.wf = true) (hi : digLen ≤ i) : m.read i = unlisted := by
  have key : ∀ (l : Memory) (lo : Nat), l.wfFrom lo = true → l.read i = unlisted := by
    intro l
    induction l with
    | nil => exact fun _ _ => rfl
    | cons c rest ih =>
      intro lo hlo
      obtain ⟨-, h2, -, h4⟩ := Memory.wfFrom_cons.1 hlo
      simp only [Memory.read, show c.1 ≠ i by omega, if_false]
      exact ih _ h4
  exact key m 0 h

theorem Memory.read_entry_append {m : Memory} (i j : Nat) (b : Byte) (h : m.read i = unlisted) :
    Memory.read (Memory.entry i b ++ m) j = if j = i then b else m.read j := by
  unfold Memory.entry
  split
  · next hb => split
               · next e => subst e; rw [List.nil_append, h, hb]
               · rfl
  · simp only [List.cons_append, List.nil_append, Memory.read, eq_comm]

/-- Read after write, at the same index and at another (R38). -/
theorem Memory.read_write {m : Memory} {lo i j : Nat} (b : Byte) (h : m.wfFrom lo = true) :
    (m.write i b).read j = if j = i then b else m.read j := by
  induction m generalizing lo with
  | nil => simpa [Memory.write] using Memory.read_entry_append (m := []) i j b rfl
  | cons c rest ih =>
    obtain ⟨h1, h2, h3, h4⟩ := Memory.wfFrom_cons.1 h
    simp only [Memory.write]
    split
    · next hi =>
      exact Memory.read_entry_append i j b
        (Memory.read_of_wfFrom (Memory.wfFrom_cons.2 ⟨Nat.le_refl _, h2, h3, h4⟩) hi)
    · split
      · next e =>
        rw [Memory.read_entry_append i j b (Memory.read_of_wfFrom h4 (by omega))]
        split
        · rfl
        · next hj => simp only [Memory.read, show ¬ c.1 = j by omega, if_false]
      · next hne =>
        simp only [Memory.read]
        split
        · next e => simp [show ¬ j = i by omega]
        · exact ih h4

/-- A block write changes the bytes it covers to its own and no other (R38, R150). -/
theorem Memory.read_writeBytes {m : Memory} {i j : Nat} (bs : List Byte) (h : m.wf = true)
    (hi : i + bs.length ≤ digLen) :
    (m.writeBytes i bs).read j = if i ≤ j ∧ j < i + bs.length then bs.getD (j - i) 0 else m.read j := by
  induction bs generalizing m i with
  | nil => simp [Memory.writeBytes, show ¬ (i ≤ j ∧ j < i) by omega]
  | cons x rest ih =>
    simp only [List.length_cons] at hi
    rw [Memory.writeBytes, ih (Memory.write_wf x h (by omega)) (by omega), Memory.read_write x h]
    simp only [List.length_cons]
    by_cases hj : j = i
    · subst hj; simp
    · by_cases hc : i + 1 ≤ j ∧ j < i + 1 + rest.length
      · obtain ⟨k, rfl⟩ : ∃ k, j = i + 1 + k := ⟨j - (i + 1), by omega⟩
        simp [show i ≤ i + 1 + k by omega, show i + 1 + k < i + (rest.length + 1) by omega,
          show i + 1 + k - i = k + 1 by omega, show k < rest.length by omega]
      · rw [if_neg hc, if_neg hj, if_neg (by omega)]

@[simp] theorem Memory.length_readBytes (m : Memory) (i n : Nat) : (m.readBytes i n).length = n := by
  induction n generalizing i with
  | zero => rfl
  | succ n ih => simp [Memory.readBytes, ih]

theorem Memory.getD_readBytes {m : Memory} {i n k : Nat} (hk : k < n) :
    (m.readBytes i n).getD k 0 = m.read (i + k) := by
  induction n generalizing i k with
  | zero => omega
  | succ n ih =>
    cases k with
    | zero => simp [Memory.readBytes]
    | succ k =>
      simp only [Memory.readBytes, List.getD_cons_succ]
      rw [ih (by omega)]; congr 1; omega

/-- Reading back a block that was just written at the front of the buffer. -/
theorem Memory.readBytes_writeBytes {m : Memory} (d rest : List Byte) (h : m.wf = true)
    (hd : d.length + rest.length ≤ digLen) : (m.writeBytes 0 (d ++ rest)).readBytes 0 d.length = d := by
  apply List.ext_getElem (by simp)
  intro k h1 h2
  have hk : k < d.length := h2
  rw [← List.getD_eq_getElem _ 0 h1, Memory.getD_readBytes hk,
    Memory.read_writeBytes (d ++ rest) h (by simpa using hd)]
  simp [hk, show k < d.length + rest.length by omega]

/-- Equal buffers are equal data: a canonical list is determined by what its bytes read as. -/
theorem Memory.ext_of_wfFrom {m m' : Memory} {lo : Nat} (h : m.wfFrom lo = true) (h' : m'.wfFrom lo = true)
    (hr : ∀ i, m.read i = m'.read i) : m = m' := by
  induction m generalizing m' lo with
  | nil =>
    cases m' with
    | nil => rfl
    | cons c rest =>
      obtain ⟨-, -, h3, -⟩ := Memory.wfFrom_cons.1 h'
      exact absurd (by simpa [Memory.read] using (hr c.1).symm) h3
  | cons c rest ih =>
    obtain ⟨h1, h2, h3, h4⟩ := Memory.wfFrom_cons.1 h
    cases m' with
    | nil => exact absurd (by simpa [Memory.read] using hr c.1) h3
    | cons d rest' =>
      obtain ⟨k1, k2, k3, k4⟩ := Memory.wfFrom_cons.1 h'
      have hcd : c.1 = d.1 := by
        rcases Nat.lt_trichotomy c.1 d.1 with hlt | he | hlt
        · have := hr c.1
          rw [Memory.read_of_wfFrom (Memory.wfFrom_cons.2 ⟨Nat.le_refl _, k2, k3, k4⟩) hlt] at this
          exact absurd (by simpa [Memory.read] using this) h3
        · exact he
        · have := hr d.1
          rw [Memory.read_of_wfFrom (Memory.wfFrom_cons.2 ⟨Nat.le_refl _, h2, h3, h4⟩) hlt] at this
          exact absurd (by simpa [Memory.read] using this.symm) k3
      have hv : c.2 = d.2 := by simpa [Memory.read, hcd] using hr c.1
      have ht : rest = rest' := by
        refine ih h4 (hcd ▸ k4) fun i => ?_
        by_cases hi : c.1 = i
        · rw [Memory.read_of_wfFrom h4 (by omega), Memory.read_of_wfFrom k4 (by omega)]
        · simpa [Memory.read, hi, show ¬ d.1 = i from hcd ▸ hi] using hr i
      rw [ht, show c = d from Prod.ext hcd hv]

end Sys2Proof.Machine
end

