-- ==== Sys2Proof/Laws/PerInstr.lean ====
section
/-! SUPPORT. Statements about a command as syntax, one lemma for each constructor of `Instr` (LAWS.json). -/

namespace Sys2Proof.Laws

/-- R87: the word of a well-formed command meets its row's opcode, mask and match. -/
def RowMatch.Statement (i : Instr) : Prop :=
  i.wf = true → opcField (encode i) = i.op.opc ∧ encode i &&& i.op.mask = i.op.bits

theorem RowMatch.nop : RowMatch.Statement .nop := fun _ => by decide
theorem RowMatch.sreset : RowMatch.Statement .sreset := fun _ => by decide
theorem RowMatch.clrErr : RowMatch.Statement .clrErr := fun _ => by decide
theorem RowMatch.keyBegin (alg : Alg) : RowMatch.Statement (.keyBegin alg) := fun _ => by cases alg <;> decide
theorem RowMatch.keyAppend (nb : Nat) : RowMatch.Statement (.keyAppend nb) := fun h => by
  simp only [Instr.wf, wfByteCount, Bool.and_eq_true, decide_eq_true_eq] at h
  obtain ⟨h1, h4⟩ := h
  obtain rfl | rfl | rfl | rfl : nb = 1 ∨ nb = 2 ∨ nb = 3 ∨ nb = 4 := by omega
  all_goals decide
theorem RowMatch.keyEnd : RowMatch.Statement .keyEnd := fun _ => by decide
theorem RowMatch.keyZero : RowMatch.Statement .keyZero := fun _ => by decide
theorem RowMatch.hmac : RowMatch.Statement .hmac := fun _ => by decide
theorem RowMatch.trunc (alg : Alg) : RowMatch.Statement (.trunc alg) := fun _ => by cases alg <;> decide

/-- The DIG field of a digit count stands in bits 23:16 and no other bit (R85, R91). -/
theorem digits_in_field {n : Nat} {low : Word} (hn : n ≤ 255) (hl : low.toNat < 2 ^ 16) :
    opcField (low ||| (BitVec.ofNat 32 n <<< 16)) = opcField low ∧
      (low ||| (BitVec.ofNat 32 n <<< 16)) &&& 0xFF00FFFF = low ∧
      digField (low ||| (BitVec.ofNat 32 n <<< 16)) = BitVec.ofNat 8 n := by
  have hw : BitVec.ofNat 32 n = (BitVec.ofNat 8 n).setWidth 32 := BitVec.eq_of_toNat_eq (by simp; omega)
  obtain ⟨h1, h2, h3⟩ := masked_and_field_of_or (mask := 0xFF00FFFF) (low := low) (p := 16) (k := 8) (by decide) hl
    (by decide) (BitVec.ofNat 8 n)
  rw [hw]
  exact ⟨h3 8 (by decide), h1, h2⟩

theorem RowMatch.reduce (n : Nat) : RowMatch.Statement (.reduce n) := fun h => by
  simp only [Instr.wf, wfDigits, Bool.and_eq_true, decide_eq_true_eq] at h
  have := digits_in_field (low := 0x00000022#32) h.2 (by decide)
  exact ⟨this.1, this.2.1⟩
theorem RowMatch.derive (n : Nat) : RowMatch.Statement (.derive n) := fun h => by
  simp only [Instr.wf, wfDigits, Bool.and_eq_true, decide_eq_true_eq] at h
  have := digits_in_field (low := 0x00000023#32) h.2 (by decide)
  exact ⟨this.1, this.2.1⟩

end Sys2Proof.Laws
end

