-- ==== Sys2Proof/Laws/Run.lean ====
section
/-! SUPPORT. Runs of several steps: a run goes on after a step, and a command written and completed. -/

namespace Sys2Proof.Machine

theorem run_zero (s : State) : Host.Core.run core 0 s = .next s := rfl

/-- A run goes on from the next state of its first step. -/
theorem run_step {s t : State} (h : step s = .next t) (k : Nat) :
    Host.Core.run core (k + 1) s = Host.Core.run core k t := by
  have h' : core.step s = .next t := h
  simp [Host.Core.run, h']

/-- A run that answers a next state took a first step that does. -/
theorem run_succ_next {s t : State} {k : Nat} (h : Host.Core.run core (k + 1) s = .next t) :
    ∃ u, step s = .next u ∧ Host.Core.run core k u = .next t := by
  have h := (Host.Core.run.eq_2 core s k).symm.trans h
  split at h
  · next u hu => exact ⟨u, hu, h⟩
  · cases h
  · cases h

/-- Two runs in a row are one. -/
theorem run_add {s t : State} {j : Nat} (h : Host.Core.run core j s = .next t) (k : Nat) :
    Host.Core.run core (j + k) s = Host.Core.run core k t := by
  induction j generalizing s with
  | zero => rw [run_zero] at h; cases h; simp
  | succ j ih =>
    obtain ⟨u, hu, hr⟩ := run_succ_next h
    rw [Nat.succ_add, run_step hu]
    exact ih hr

/-- The state a command leaves when it is accepted now and completed with the events `rest` to come. -/
def afterCommand (i : Instr) (rest : List Event) (s : State) : State :=
  finish (effectState i ⟨i, s.keyData, counter s⟩ { accept i s with events := rest })

/-- A command written to CMD, accepted, and completed by the engine before the next transaction (R300, R301, R306). -/
theorem run_command {s : State} {i : Instr} {w : Word} {rest : List Event} (hl : s.resetLine = false)
    (he : s.events = .write 0x04#7 4 w :: .engine :: rest) (hd : decode w = .ok i) (hs : i ≠ .sreset)
    (hb : s.busy = false) (her : s.err = true → i = .clrErr) (hc : stateCheck i s = none) (k : Nat) :
    Host.Core.run core (k + 2) s = Host.Core.run core k (afterCommand i rest s) := by
  have h1 : step s = .next (accept i { s with events := .engine :: rest }) := by
    refine (step_command hl he).trans
      ((present_decoded (s := { s with events := .engine :: rest }) hb her hd).trans (exec_accepted hs hb her ?_))
    rw [← hc]; cases i <;> rfl
  have h2 : step (accept i { s with events := .engine :: rest }) = .next (afterCommand i rest s) := by
    refine (step_engine (rest := rest) rfl).trans ?_
    exact exec_pending (p := ⟨i, s.keyData, counter s⟩) rfl rfl hs
  rw [run_step h1, run_step h2]

end Sys2Proof.Machine
end

