-- ==== Sys2Proof/Laws/Units.lean ====
section
/-! SUPPORT. What the functional units compute, in the bytes and numbers of the spec: KEY_APPEND's bytes, the digest
stored, the truncation window and the reduction. -/

namespace Sys2Proof.Machine

/-- The bytes KEY_APPEND takes, in the order of R33. -/
theorem keyBytes_eq (kd : Word) (nb : Nat) :
    keyBytes kd nb =
      [kd.extractLsb' 24 8, kd.extractLsb' 16 8, kd.extractLsb' 8 8, kd.extractLsb' 0 8].take nb := by
  unfold keyBytes
  congr 1
  simp only [toBE]
  repeat' apply congrArg₂ List.cons
  all_goals first | rfl | (apply BitVec.eq_of_toNat_eq; simp [Nat.shiftRight_eq_div_pow])

theorem length_keyBytes (kd : Word) (nb : Nat) : (keyBytes kd nb).length = min nb 4 := by simp [keyBytes]

/-- The counter as a number (R36). -/
theorem counter_eq (s : State) :
    counter s = BitVec.ofNat 64 (s.counterHi.toNat * 2 ^ 32 + s.counterLo.toNat) := by
  apply BitVec.eq_of_toNat_eq
  have h1 := s.counterHi.isLt
  have h2 := s.counterLo.isLt
  rw [counter, BitVec.toNat_append, BitVec.toNat_ofNat, ← Nat.shiftLeft_add_eq_or_of_lt h2, Nat.shiftLeft_eq]
  omega

/-- DIG after an L-byte digest is stored: its bytes, zero up to byte 63, and nothing beyond (R150). -/
theorem read_storeDigest {s : State} {d : List Byte} (hd : d.length ≤ 64) (hw : s.dig.wf = true) (j : Nat) :
    (storeDigest d s).dig.read j = if j < d.length then d.getD j 0 else if j < 64 then 0 else s.dig.read j := by
  simp only [storeDigest_dig]
  rw [Memory.read_writeBytes _ hw (by simp [digLen]; omega)]
  simp only [List.length_append, length_zeros, digLen]
  by_cases h1 : j < d.length
  · simp [h1, show j < d.length + (64 - d.length) by omega]
  · by_cases h2 : j < 64
    · simp [h1, h2, zeros, show j < d.length + (64 - d.length) by omega, show d.length ≤ j by omega]
    · simp [h1, h2, show ¬ j < d.length + (64 - d.length) by omega]

theorem storeDigest_wf {s : State} {d : List Byte} (hd : d.length ≤ 64) (hw : s.dig.wf = true) :
    (storeDigest d s).dig.wf = true := by
  simp only [storeDigest_dig]
  exact Memory.writeBytes_wf _ hw (by simp [digLen]; omega)

/-- The stored digest read back (R240: DERIVE truncates what HMAC stores). -/
theorem readBytes_storeDigest {s : State} {d : List Byte} (hd : d.length ≤ 64) (hw : s.dig.wf = true) :
    (storeDigest d s).dig.readBytes 0 d.length = d := by
  simp only [storeDigest_dig]
  exact Memory.readBytes_writeBytes _ _ hw (by simp [digLen]; omega)

/-- The offset is the low nibble of the last byte (R201). -/
theorem dtOffset_eq (len : Nat) (d : List Byte) :
    dtOffset len d = BitVec.ofNat 4 ((d.getD (len - 1) 0).toNat % 16) := by
  apply BitVec.eq_of_toNat_eq; simp [dtOffset]

/-- Four bytes in order as one big-endian number, the top bit cleared (R201). -/
theorem dtValue_eq {off : Nat} {d : List Byte} (h : off + 4 ≤ d.length) :
    dtValue off d =
      (d.getD off 0 ++ d.getD (off + 1) 0 ++ d.getD (off + 2) 0 ++ d.getD (off + 3) 0).setWidth 31 := by
  have hd : (d.drop off).take 4 = [d.getD off 0, d.getD (off + 1) 0, d.getD (off + 2) 0, d.getD (off + 3) 0] := by
    apply List.ext_getElem
    · simp; omega
    · intro k h1 h2
      simp at h2
      have : off + k < d.length := by omega
      obtain rfl | rfl | rfl | rfl : k = 0 ∨ k = 1 ∨ k = 2 ∨ k = 3 := by omega
      all_goals simp
      all_goals rw [List.getElem?_eq_getElem (by omega)]; rfl
  unfold dtValue
  rw [hd]
  apply BitVec.eq_of_toNat_eq
  generalize d.getD off 0 = a
  generalize d.getD (off + 1) 0 = b
  generalize d.getD (off + 2) 0 = c
  generalize d.getD (off + 3) 0 = e
  have ha := a.isLt; have hb := b.isLt; have hc := c.isLt; have he := e.isLt
  simp only [be, List.foldl, BitVec.toNat_setWidth, BitVec.toNat_and, BitVec.toNat_append, BitVec.toNat_ofNat]
  rw [← Nat.shiftLeft_add_eq_or_of_lt he, ← Nat.shiftLeft_add_eq_or_of_lt hc, ← Nat.shiftLeft_add_eq_or_of_lt hb]
  simp only [Nat.shiftLeft_eq]
  rw [show BitVec.toNat (2147483647 : Word) = 2 ^ 31 - 1 by decide, Nat.and_two_pow_sub_one_eq_mod]
  omega

/-- CODE holds the exact remainder: it fits 32 bits (R34, R221). -/
theorem toNat_code (t : BitVec 31) (n : Nat) : (BitVec.ofNat 32 (red t n)).toNat = t.toNat % 10 ^ n := by
  have := t.isLt
  have := Nat.mod_le t.toNat (10 ^ n)
  simp [red]; omega

end Sys2Proof.Machine
end

