-- ==== Sys2Proof/Laws/Pseudo.lean ====
section
/-! SUPPORT. What the parts of a pseudo-instruction do in a run: the reads of a WAIT, a command with its WAIT, a write of
KEY_DATA and the packing of key bytes into it. -/

namespace Sys2Proof.Machine

/-- Every command keeps the reset input's level and the events to come. -/
theorem effectState_own (i : Instr) (p : Pending) (s : State) :
    (effectState i p s).resetLine = s.resetLine ∧ (effectState i p s).events = s.events := by
  cases i <;> exact ⟨rfl, rfl⟩

/-- R92: one read of STATUS. -/
theorem run_status {s : State} {rest : List Event} (hl : s.resetLine = false) (he : s.events = rd .status :: rest)
    (k : Nat) : Host.Core.run core (k + 1) s =
      Host.Core.run core k { s with events := rest, rdata := some (statusWord s) } := by
  have h := step_read hl he (regAt_offset .status)
  simp only [readReg, isResult, Bool.false_eq_true, and_false, if_false] at h
  exact run_step h k

/-- R92: the reads of STATUS before a completion change no register. -/
theorem run_polls {s : State} {rest : List Event} (n : Nat) (hl : s.resetLine = false)
    (he : s.events = List.replicate n (rd .status) ++ rest) :
    ∃ d, ∀ k, Host.Core.run core (k + n) s = Host.Core.run core k { s with events := rest, rdata := d } := by
  induction n generalizing s with
  | zero => exact ⟨s.rdata, fun k => by rw [show rest = s.events from he.symm]; rfl⟩
  | succ n ih =>
    have he' : s.events = rd .status :: (List.replicate n (rd .status) ++ rest) := he
    obtain ⟨d, hd⟩ := ih (s := { s with
      events := List.replicate n (rd .status) ++ rest, rdata := some (statusWord s) }) hl rfl
    exact ⟨d, fun k => by rw [← Nat.add_assoc, run_status hl he', hd]⟩

/-- R92: a command that is accepted, with its WAIT, leaves the command's effect, however often the WAIT polls. -/
theorem run_issueAndWait {s : State} {rest : List Event} {i : Instr} (n : Nat) (hl : s.resetLine = false)
    (he : s.events = issueAndWait n i ++ rest) (hd : decode (encode i) = .ok i) (hs : i ≠ .sreset)
    (hb : s.busy = false) (her : s.err = true → i = .clrErr) (hc : stateCheck i s = none) :
    ∃ d, ∀ k, Host.Core.run core (k + (issueAndWait n i).length) s = Host.Core.run core k
      { finish (effectState i ⟨i, s.keyData, counter s⟩ s) with events := rest, rdata := d } := by
  have h1 : step s = .next (accept i { s with events := wait n ++ rest }) := by
    refine (step_command (rest := wait n ++ rest) hl he).trans
      ((present_decoded (s := { s with events := wait n ++ rest }) hb her hd).trans (exec_accepted hs hb her ?_))
    rw [← hc]; cases i <;> rfl
  obtain ⟨d, hp⟩ := run_polls (s := accept i { s with events := wait n ++ rest })
    (rest := .engine :: rd .status :: rest) n hl (by simp [wait])
  let u : State :=
    { accept i { s with events := wait n ++ rest } with events := .engine :: rd .status :: rest, rdata := d }
  let t : State := finish (effectState i ⟨i, s.keyData, counter s⟩ { u with events := rd .status :: rest })
  have h2 : step u = .next t := (step_engine (s := u) rfl).trans (exec_pending (p := ⟨i, s.keyData, counter s⟩) rfl rfl hs)
  refine ⟨some (statusWord t), fun k => ?_⟩
  have hlen : (issueAndWait n i).length = n + 3 := by simp [issueAndWait, wait]
  have ht := effectState_own i ⟨i, s.keyData, counter s⟩ { u with events := rd .status :: rest }
  rw [hlen, show k + (n + 3) = k + 1 + 1 + n + 1 by omega, run_step h1, hp, run_step h2,
    run_status (s := t) (ht.1.trans hl) ht.2]
  congr 1
  cases i <;> rfl

/-- R92, R65: a write of KEY_DATA while BUSY = 0. -/
theorem run_keyData {s : State} {rest : List Event} {v : Word} (hl : s.resetLine = false) (hb : s.busy = false)
    (he : s.events = wr .keyData v :: rest) (k : Nat) :
    Host.Core.run core (k + 1) s = Host.Core.run core k { s with events := rest, keyData := v } := by
  have h := step_write hl he (regAt_offset .keyData) (by decide)
  simp only [writeReg, writeOperand, hb, Bool.false_eq_true, if_false] at h
  rw [← hb] at h
  exact run_step h k

/-- BE4 of BE of four bytes is the bytes (00_scope.md, notation). -/
theorem toBE_be_four (a b c d : Byte) : toBE 4 (be [a, b, c, d]) = [a, b, c, d] := by
  have ha := a.isLt; have hb := b.isLt; have hc := c.isLt; have hd := d.isLt
  simp only [be, List.foldl, toBE, List.cons.injEq, and_true]
  refine ⟨?_, ?_, ?_, ?_⟩ <;> (apply BitVec.eq_of_toNat_eq; simp; omega)

/-- R92, R121: KEY_APPEND takes back the bytes that LOADKEY packed into KEY_DATA. -/
theorem keyBytes_packed {b : List Byte} (h : b.length ≤ 4) :
    keyBytes (BitVec.ofNat 32 (be (b ++ zeros (4 - b.length)))) b.length = b := by
  obtain ⟨w, x, y, z, he⟩ : ∃ w x y z, b ++ zeros (4 - b.length) = [w, x, y, z] := by
    have hl : (b ++ zeros (4 - b.length)).length = 4 := by simp; omega
    match b ++ zeros (4 - b.length), hl with
    | [w, x, y, z], _ => exact ⟨w, x, y, z, rfl⟩
  have hlt : be [w, x, y, z] < 2 ^ 32 := by
    have := w.isLt; have := x.isLt; have := y.isLt; have := z.isLt
    simp only [be, List.foldl]; omega
  rw [he, keyBytes, BitVec.toNat_ofNat, Nat.mod_eq_of_lt hlt, toBE_be_four, ← he]
  simp

end Sys2Proof.Machine
end

