-- ==== Sys2Proof/Laws/Step.lean ====
section
/-! SUPPORT. The inversion of `step`: everything a step can do when it answers a next state, with the event it took and
the guards it passed. The invariants and the whole-machine statements follow from it case by case. -/

namespace Sys2Proof.Machine

/-- The state a step acts on: the event it takes is no longer scheduled. -/
def taken (s : State) : State := { s with events := s.events.tail }

theorem taken_of_nil {s : State} (he : s.events = []) : taken s = s := by cases s; simp_all [taken]

theorem taken_of_cons {s : State} {e : Event} {rest : List Event} (he : s.events = e :: rest) :
    taken s = { s with events := rest } := by simp [taken, he]

/-- It is the engine's turn: its event comes next, or none is left (R350). -/
def EnginesTurn (s : State) : Prop := s.events = [] ∨ ∃ rest, s.events = .engine :: rest

/-- CMD is written with a word next, and the reset input is released. -/
structure CmdWritten (s : State) (w : Word) : Prop where
  released : s.resetLine = false
  event : ∃ rest, s.events = .write 0x04#7 4 w :: rest

/-- The states a step can answer (R70, R300, R306, R340). -/
inductive StepCase (s : State) : State → Prop where
  /-- The engine has nothing to complete. -/
  | idle (ht : EnginesTurn s) (hn : s.busy = false ∨ s.pending = none) : StepCase s (taken s)
  /-- R306. -/
  | completed (p : Pending) (ht : EnginesTurn s) (hb : s.busy = true) (hp : s.pending = some p)
      (hs : p.cmd ≠ .sreset) : StepCase s (finish (effectState p.cmd p (taken s)))
  /-- A pending SRESET: no run reaches it, since SRESET is never accepted (R300). -/
  | abnormal (p : Pending) (ht : EnginesTurn s) (hb : s.busy = true) (hp : s.pending = some p)
      (hs : p.cmd = .sreset) : StepCase s (softReset (taken s))
  /-- R61. -/
  | read (r : Reg) (rest : List Event) (hl : s.resetLine = false) (he : s.events = .read r.offset 4 :: rest) :
      StepCase s (readReg r (taken s))
  /-- R65. -/
  | write (r : Reg) (v : Word) (rest : List Event) (hl : s.resetLine = false)
      (he : s.events = .write r.offset 4 v :: rest) (hr : r ≠ .cmd) : StepCase s (writeReg r v (taken s))
  /-- R305. -/
  | performed (hc : CmdWritten s 0x00000001#32) : StepCase s (softReset (taken s))
  /-- R304. -/
  | dropped (w : Word) (hc : CmdWritten s w) (hw : w ≠ 0x00000001#32) (hb : s.busy = true) :
      StepCase s (drop (taken s))
  /-- R303. -/
  | discarded (w : Word) (hc : CmdWritten s w) (hw : w ≠ 0x00000001#32) (hw' : w ≠ 0x00000002#32)
      (hb : s.busy = false) (he : s.err = true) : StepCase s (discard (taken s))
  /-- R302 with an error of decoding. -/
  | undecoded (w : Word) (e : ErrCode) (hc : CmdWritten s w) (hb : s.busy = false) (he : s.err = false)
      (hd : decode w = .error e) : StepCase s (raise e (taken s))
  /-- R302 with an error of the state check. -/
  | rejected (w : Word) (i : Instr) (e : ErrCode) (hc : CmdWritten s w) (hb : s.busy = false) (he : s.err = false)
      (hd : decode w = .ok i) (hk : stateCheck i s = some e) : StepCase s (raise e (taken s))
  /-- R301. -/
  | accepted (w : Word) (i : Instr) (hc : CmdWritten s w) (hs : i ≠ .sreset) (hb : s.busy = false)
      (he : s.err = true → i = .clrErr) (hd : decode w = .ok i) (hk : stateCheck i s = none) :
      StepCase s (accept i (taken s))
  /-- R340. -/
  | asserted (rest : List Event) (he : s.events = .resetAssert :: rest) : StepCase s (hardReset true (taken s))
  | released (rest : List Event) (he : s.events = .resetRelease :: rest) : StepCase s (hardReset false (taken s))

/-- A state check reads nothing the events touch. -/
theorem stateCheck_taken (i : Instr) (s : State) : stateCheck i (taken s) = stateCheck i s := by cases i <;> rfl

theorem engineStep_case {s t : State} (ht : EnginesTurn s) (h : engineStep (taken s) = .next t) : StepCase s t := by
  unfold engineStep at h
  split at h
  · next hb =>
    split at h
    · next p hp =>
      by_cases hs : p.cmd = .sreset
      · rw [hs] at h; cases h; exact .abnormal p ht hb hp hs
      · rw [exec_pending hb hp hs] at h; cases h; exact .completed p ht hb hp hs
    · next hp => cases h; exact .idle ht (.inr hp)
  · next hb => cases h; exact .idle ht (.inl (by simpa [taken] using hb))

theorem present_case {s t : State} {w : Word} (hc : CmdWritten s w) (h : present w (taken s) = .next t) :
    StepCase s t := by
  by_cases hw : w = 0x00000001#32
  · subst hw; rw [present_sreset] at h; cases h; exact .performed hc
  cases hb : s.busy with
  | true => rw [present_busy (s := taken s) hb hw] at h; cases h; exact .dropped w hc hw hb
  | false =>
  by_cases hx : s.err = true ∧ w ≠ 0x00000002#32
  · rw [present_err (s := taken s) hb hx.1 hw hx.2] at h; cases h; exact .discarded w hc hw hx.2 hb hx.1
  have hclr : s.err = true → w = 0x00000002#32 := fun he => not_not.1 fun hn => hx ⟨he, hn⟩
  cases hd : decode w with
  | error e =>
    have he : s.err = false := Bool.eq_false_iff.2 fun he => by
      rw [hclr he, show decode 0x00000002#32 = .ok .clrErr by decide] at hd; cases hd
    rw [present_undecoded (s := taken s) hb he hd] at h; cases h; exact .undecoded w e hc hb he hd
  | ok i =>
    have hi : s.err = true → i = .clrErr := fun he => by
      rw [hclr he, show decode 0x00000002#32 = .ok .clrErr by decide] at hd; cases hd; rfl
    have hs : i ≠ .sreset := by rintro rfl; exact hw (decode_sreset hd)
    rw [present_decoded (s := taken s) hb hi hd] at h
    cases hk : stateCheck i s with
    | none =>
      rw [exec_accepted (s := taken s) hs hb hi ((stateCheck_taken i s).trans hk)] at h
      cases h; exact .accepted w i hc hs hb hi hd hk
    | some e =>
      have he : s.err = false := Bool.eq_false_iff.2 fun he => by rw [hi he] at hk; cases hk
      rw [exec_rejected (s := taken s) hs hb hi ((stateCheck_taken i s).trans hk)] at h
      cases h; exact .rejected w i e hc hb he hd hk

/-- Everything a step can do when it answers a next state. -/
theorem step_case {s t : State} (h : step s = .next t) : StepCase s t := by
  cases he : s.events with
  | nil =>
    rw [step_nil he] at h
    exact engineStep_case (.inl he) ((congrArg engineStep (taken_of_nil he)).trans h)
  | cons e rest =>
    rw [step_cons he, ← taken_of_cons he] at h
    cases e with
    | read off width =>
      simp only [runEvent, hostRead] at h
      split at h
      · cases h
      · next hl =>
        split at h <;> cases h
        next r hr =>
        obtain ⟨rfl, rfl⟩ := target_eq_some.1 hr
        exact .read r rest (by simpa [taken] using hl) he
    | write off width v =>
      simp only [runEvent, hostWrite] at h
      split at h
      · cases h
      next hl =>
      have hl : s.resetLine = false := by simpa [taken] using hl
      split at h
      · cases h
      next r hr =>
      obtain ⟨rfl, rfl⟩ := target_eq_some.1 hr
      split at h
      · next hr => subst hr; exact present_case ⟨hl, rest, he⟩ h
      · next hr => cases h; exact .write r v rest hl he hr
    | engine => exact engineStep_case (.inr ⟨rest, he⟩) h
    | resetAssert => cases h; exact .asserted rest he
    | resetRelease => cases h; exact .released rest he

end Sys2Proof.Machine
end

