-- ==== Sys2Proof/Tests/Slice0.lean ====
section
/-! SUPPORT. The model's own tests: ill-formed terms refused, words written out from the encodings of
spec/30_encoding.md R87, single steps whose results stand in spec/95_test_vectors.md or in a rule's example, and for
each statement of Certificates/Slice0/Obligations.lean that has hypotheses a state that meets them all. -/

namespace Sys2Proof.Tests

open Sys2Proof Sys2Proof.Machine

/-! ### Helpers -/

/-- The reset state with transactions to come. -/
def scheduled (e : List Event) : State := { State.reset with events := e }

/-- The next state, read by `f`. -/
def after {α : Type} (o : Host.Outcome State Fault Refusal) (f : State → α) : Option α :=
  match o with
  | .next t => some (f t)
  | .fault _ => none
  | .refused _ => none

/-- The key "12345678901234567890" (W1). -/
def rfcKey : List Byte := (List.range 20).map fun k => BitVec.ofNat 8 (0x30 + (k + 1) % 10)

/-- A complete key, bound to an algorithm. -/
def ready (a : Alg) (k : List Byte) : State :=
  { State.reset with kstate := .ready, kalg := a, key := k, keyLen := BitVec.ofNat 32 k.length }

/-- A key being loaded. -/
def loading (a : Alg) (k : List Byte) : State := { ready a k with kstate := .loading }

/-- STATUS 0x606: E_NOKEY recorded (V-E1). -/
def failed : State := { State.reset with err := true, errcode := some .eNoKey, done := true }

/-- DIG with bytes at its start. -/
def withDigest (d : List Byte) (s : State) : State := { s with dig := Memory.writeBytes [] 0 d }

/-! ### WellFormed refuses each kind of ill-formed term (R84, R85) -/

theorem smoke_keyAppend_0 : (Instr.keyAppend 0).wf = false := by decide
theorem smoke_keyAppend_5 : (Instr.keyAppend 5).wf = false := by decide
theorem smoke_reduce_0 : (Instr.reduce 0).wf = false := by decide
theorem smoke_reduce_256 : (Instr.reduce 256).wf = false := by decide
theorem smoke_derive_0 : (Instr.derive 0).wf = false := by decide
theorem smoke_derive_256 : (Instr.derive 256).wf = false := by decide
theorem smoke_wellFormed : (Instr.keyAppend 1).wf = true ∧ (Instr.keyAppend 4).wf = true ∧
    (Instr.reduce 1).wf = true ∧ (Instr.reduce 255).wf = true ∧ (Instr.derive 1).wf = true ∧
    (Instr.derive 255).wf = true := by decide

/-! ### Words written out bit by bit from R87's encoding column -/

theorem test_word_nop : decode 0b00000000000000000000000000000000#32 = .ok .nop := by decide
theorem test_word_sreset : decode 0b00000000000000000000000000000001#32 = .ok .sreset := by decide
theorem test_word_clrErr : decode 0b00000000000000000000000000000010#32 = .ok .clrErr := by decide
theorem test_word_keyBegin :
    decode 0b00000000000000000000000000010000#32 = .ok (.keyBegin .sha1) ∧
    decode 0b00000000000000000000000100010000#32 = .ok (.keyBegin .sha256) ∧
    decode 0b00000000000000000000001000010000#32 = .ok (.keyBegin .sha512) := by decide
theorem test_word_keyAppend :
    decode 0b00000000000000000000000000010001#32 = .ok (.keyAppend 1) ∧
    decode 0b00000000000000000000010000010001#32 = .ok (.keyAppend 2) ∧
    decode 0b00000000000000000000100000010001#32 = .ok (.keyAppend 3) ∧
    decode 0b00000000000000000000110000010001#32 = .ok (.keyAppend 4) := by decide
theorem test_word_keyEnd : decode 0b00000000000000000000000000010010#32 = .ok .keyEnd := by decide
theorem test_word_keyZero : decode 0b00000000000000000000000000010011#32 = .ok .keyZero := by decide
theorem test_word_hmac : decode 0b00000000000000000000000000100000#32 = .ok .hmac := by decide
theorem test_word_trunc :
    decode 0b00000000000000000000000000100001#32 = .ok (.trunc .sha1) ∧
    decode 0b00000000000000000000000100100001#32 = .ok (.trunc .sha256) ∧
    decode 0b00000000000000000000001000100001#32 = .ok (.trunc .sha512) := by decide
theorem test_word_reduce :
    decode 0b00000000000000010000000000100010#32 = .ok (.reduce 1) ∧
    decode 0b00000000111111110000000000100010#32 = .ok (.reduce 255) := by decide
theorem test_word_derive :
    decode 0b00000000000001100000000000100011#32 = .ok (.derive 6) ∧
    decode 0b00000000100000000000000000100011#32 = .ok (.derive 128) := by decide

/-- R91: the words of commands with an operand. -/
theorem test_encode : encode (.keyBegin .sha512) = 0x00000210#32 ∧ encode (.keyAppend 4) = 0x00000C11#32 ∧
    encode (.trunc .sha256) = 0x00000121#32 ∧ encode (.reduce 255) = 0x00FF0022#32 ∧
    encode (.derive 6) = 0x00060023#32 := by decide

/-- R91: the assembly text. -/
theorem test_assembly : Instr.assembly (.keyBegin .sha256) = "KEY_BEGIN sha256" ∧
    Instr.assembly (.derive 6) = "DERIVE 6" := by decide

/-! ### Rejected words (section 2.1 of 95_test_vectors.md) -/

theorem test_reject_opc : decode 0x00000003#32 = .error .eOpc ∧ decode 0x00000014#32 = .error .eOpc ∧
    decode 0x00000024#32 = .error .eOpc ∧ decode 0x000000FF#32 = .error .eOpc := by decide
theorem test_reject_rsvd : decode 0x00000100#32 = .error .eRsvd ∧ decode 0x00000410#32 = .error .eRsvd ∧
    decode 0x00000111#32 = .error .eRsvd ∧ decode 0x00001013#32 = .error .eRsvd ∧
    decode 0x00010122#32 = .error .eRsvd ∧ decode 0x01060023#32 = .error .eRsvd := by decide
/-- E_RSVD comes before E_ALG. -/
theorem test_reject_priority : decode 0x0000F321#32 = .error .eRsvd := by decide
theorem test_reject_alg : decode 0x00000310#32 = .error .eAlg ∧ decode 0x00000321#32 = .error .eAlg := by decide
theorem test_reject_digits : decode 0x00000022#32 = .error .eDigits ∧ decode 0x00000023#32 = .error .eDigits := by
  decide

/-! ### The opcode table's words -/

theorem test_tableWord : decodeTableWord 32 0x00060023 = some (.derive 6) ∧ decodeTableWord 32 0x00000310 = none := by
  decide

/-! ### One step of each command -/

/-- V-C1: NOP accepted after reset, BUSY alone. -/
theorem test_nop_accepted : after (step (State.reset.withFetchWord 32 0x00000000)) statusWord = some 0x00000001#32 := by
  decide
/-- V-C1: NOP completed. -/
theorem test_nop : after (exec .nop (accept .nop State.reset)) statusWord = some 0x00000002#32 := by decide

/-- V-E4, with a counter and IE set: everything but DONE is cleared. -/
theorem test_sreset : after (step ({ failed with ovr := true, counterLo := 2, ie := 0b111 }.withFetchWord 32 1))
    (fun t => (statusWord t, t.counterLo, t.ie, irq t)) = some (0x00000002#32, 0, 0, false) := by decide
/-- V-E6: SRESET aborts the pending command. -/
theorem test_sreset_busy : after (step ((accept .nop State.reset).withFetchWord 32 1))
    (fun t => (statusWord t, t.pending)) = some (0x00000002#32, none) := by decide

/-- V-E3: CLR_ERR completed. -/
theorem test_clrErr : after (exec .clrErr (accept .clrErr { failed with ovr := true })) statusWord =
    some 0x00000002#32 := by decide
/-- R102: CLR_ERR is accepted while ERR = 1. -/
theorem test_clrErr_accepted : after (step (failed.withFetchWord 32 2)) statusWord = some 0x00000605#32 := by decide

/-- V-K1. -/
theorem test_keyBegin : after (exec (.keyBegin .sha256) (accept (.keyBegin .sha256) State.reset)) statusWord =
    some 0x00000052#32 := by decide
/-- V-K6: the old key is gone. -/
theorem test_keyBegin_replaces : after (exec (.keyBegin .sha512) (accept (.keyBegin .sha512) (ready .sha1 rfcKey)))
    (fun t => (statusWord t, t.key, t.keyLen)) = some (0x00000092#32, [], 0) := by decide

/-- V-K2. -/
theorem test_keyAppend : after (exec (.keyAppend 3) (accept (.keyAppend 3)
      { loading .sha1 [] with keyData := 0x31323334 }))
    (fun t => (t.key, t.keyLen)) = some ([0x31, 0x32, 0x33], 3) := by decide
/-- V-K9: one byte too many discards the key. -/
theorem test_keyAppend_overlong : after (step ({ loading .sha1 [0xAA] with keyLen := 0xFFFFFFFE }.withFetchWord 32
      0x00000411))
    (fun t => (statusWord t, t.key, t.keyLen)) = some (0x00000706#32, [], 0) := by decide

/-- V-K5: the empty key is legal. -/
theorem test_keyEnd : after (exec .keyEnd (accept .keyEnd (loading .sha1 [])))
    (fun t => (statusWord t, t.key)) = some (0x00000022#32, []) := by decide
/-- R124: KEY_END with no key being loaded. -/
theorem test_keyEnd_seq : after (step (State.reset.withFetchWord 32 0x00000012)) statusWord = some 0x00000506#32 := by
  decide

/-- V-K7. -/
theorem test_keyZero : after (exec .keyZero (accept .keyZero (ready .sha256 rfcKey)))
    (fun t => (statusWord t, t.key, t.keyLen)) = some (0x00000002#32, [], 0) := by decide

/-- V-H13: the digest of counter 0 under the RFC 4226 key, and the zero fill. -/
theorem test_hmac : after (exec .hmac (accept .hmac (ready .sha1 rfcKey)))
    (fun t => ((List.finRange 16).map (digestWord t.dig)).take 6) =
    some [0xCC93CF18, 0x508D9493, 0x4C64B65D, 0x8BA7667F, 0xB7CDE4B0, 0x00000000] := by decide +kernel
/-- Section 2.1: HMAC with no key. -/
theorem test_hmac_noKey : after (step (State.reset.withFetchWord 32 0x00000020)) statusWord = some 0x00000606#32 := by
  decide

/-- V-T4: the window at 11 with its top bit masked. -/
theorem test_trunc : after (exec (.trunc .sha1) (accept (.trunc .sha1) (withDigest (toBE 20
      0x75a48a19d4cbe100644e8ac1397eea747a2d33ab) State.reset)))
    (fun t => (t.trunc, t.toff)) = some (0x41397EEA, 11) := by decide
/-- V-T6: the last byte of a SHA-256 digest is byte 31. -/
theorem test_trunc_sha256 : after (exec (.trunc .sha256) (accept (.trunc .sha256)
      (withDigest ((List.range 32).map (BitVec.ofNat 8)) State.reset)))
    (fun t => (t.trunc, t.toff)) = some (0x0F101112, 15) := by decide +kernel

/-- R220's example. -/
theorem test_reduce : after (exec (.reduce 6) (accept (.reduce 6) { State.reset with trunc := 1094287082 }))
    (fun t => (t.code, t.codeDigits)) = some (287082, 6) := by decide
/-- R220: N = 255 gives CODE = TRUNC. -/
theorem test_reduce_255 : after (exec (.reduce 255) (accept (.reduce 255) { State.reset with trunc := 2147483647 }))
    (fun t => (t.code, t.codeDigits)) = some (2147483647, 255) := by decide +kernel

/-- W1: counter 1. -/
theorem test_derive : after (exec (.derive 6) (accept (.derive 6) { ready .sha1 rfcKey with counterLo := 1 }))
    (fun t => (t.toff, t.trunc, t.code, t.codeDigits)) = some (11, 1094287082, 287082, 6) := by decide +kernel
/-- V-D9: COUNTER_HI is part of the counter. -/
theorem test_derive_high : after (exec (.derive 6) (accept (.derive 6) { ready .sha1 rfcKey with counterHi := 1 }))
    (fun t => (t.toff, t.trunc, t.code)) = some (10, 255999456, 999456) := by decide +kernel

/-! ### The hashes and HMAC (R146, R147, R149; section 2.4) -/

theorem test_sha1_empty : be (hash .sha1 []) = 0xda39a3ee5e6b4b0d3255bfef95601890afd80709 := by decide +kernel
theorem test_sha256_empty : be (hash .sha256 []) =
    0xe3b0c44298fc1c149afbf4c8996fb92427ae41e4649b934ca495991b7852b855 := by decide +kernel
theorem test_sha512_empty : be (hash .sha512 []) =
    0xcf83e1357eefb8bdf1542850d66d8007d620e4050b5715dc83f4a921d36ce9ce47d0d13c5d85f2b0ff8318d2877eec2f63b931bd47417a81a538327af927da3e := by
  decide +kernel
/-- V-H5: a key of B + 1 bytes is hashed first. -/
theorem test_hmac_sha1_long : be (hmac .sha1 (List.replicate 65 0xAA) (zeros 8)) =
    0x861119f681ce0d31da6e970af1fd8f84695cd224 := by decide +kernel
/-- V-H2: the empty key. -/
theorem test_hmac_sha256_empty : be (hmac .sha256 [] (zeros 8)) =
    0xf375180aba92888401f1919be4a8715a62763b65c1c10e1d0858e81d4d6f9fd2 := by decide +kernel
/-- V-H8: a key of exactly B bytes is not hashed. -/
theorem test_hmac_sha512_block : be (hmac .sha512 (List.replicate 128 0xAA) (zeros 8)) =
    0x3dfa29a901d17d44fba6044373a3b32e108d75699dd5da886414a9f15ef51dcaaf460b21670f09966ba8c81b2d28ff961309c50848c21a40ccc21e5bc66279b9 := by
  decide +kernel

/-! ### The bus -/

/-- R23. -/
theorem test_read_id : after (step (scheduled [.read 0x00 4])) (fun t => t.rdata) = some (some 0x4F545043) := by decide
/-- R62: a reserved offset, a misaligned one, a 2-byte access. -/
theorem test_busErrors : step (scheduled [.read 0x30 4]) = .fault .busError ∧
    step (scheduled [.write 0x3C 4 0]) = .fault .busError ∧ step (scheduled [.read 0x22 4]) = .fault .busError ∧
    step (scheduled [.write 0x20 2 0]) = .fault .busError := ⟨rfl, rfl, rfl, rfl⟩
/-- R340. -/
theorem test_access_in_reset : step { scheduled [.read 0x00 4] with resetLine := true } = .fault .accessDuringReset := rfl
/-- R38: a write to DIGEST15 and the read of it. -/
theorem test_digest15 : after (step (scheduled [.write 0x7C 4 0x11223344]))
    (fun t => (digestWord t.dig 15, t.dig.read 60, t.dig.read 63)) = some (0x11223344, 0x11, 0x44) := by decide
/-- V-E5: a word dropped while BUSY = 1. -/
theorem test_dropped : after (step ((accept (.derive 6) (ready .sha1 rfcKey)).withFetchWord 32 2)) statusWord =
    some 0x00000029#32 := by decide
/-- V-E2: a word discarded while ERR = 1 is not decoded. -/
theorem test_discarded : after (step (failed.withFetchWord 32 0xFF)) statusWord = some 0x00000606#32 := by decide
/-- R92: LOADKEY of five bytes is one group of four and one of one, zero-filled; the WAIT of the first group polls twice
and that of KEY_END once before the completion, the others not at all. -/
theorem test_loadKey : loadKey (fun j => if j = 1 then 2 else if j = 3 then 1 else 0) .sha1 [1, 2, 3, 4, 5] =
    [.write 0x04 4 0x00000010, .engine, .read 0x08 4, .write 0x10 4 0x01020304, .write 0x04 4 0x00000C11,
      .read 0x08 4, .read 0x08 4, .engine, .read 0x08 4, .write 0x10 4 0x05000000, .write 0x04 4 0x00000011, .engine,
      .read 0x08 4, .write 0x04 4 0x00000012, .read 0x08 4, .engine, .read 0x08 4] := by decide
/-- R92: OTP with the empty key; the WAIT of DERIVE, number 2, polls once. -/
theorem test_otp : otp (fun j => if j = 2 then 1 else 0) .sha256 [] 0x0000000100000002 6 =
    [.write 0x04 4 0x00000110, .engine, .read 0x08 4, .write 0x04 4 0x00000012, .engine, .read 0x08 4,
      .write 0x18 4 1, .write 0x1C 4 2, .write 0x04 4 0x00060023, .read 0x08 4, .engine, .read 0x08 4,
      .read 0x08 4, .read 0x28 4] := by decide
/-- R92: SETCTR. -/
theorem test_setCtr : setCtr 0x0000000100000002 = [.write 0x18 4 1, .write 0x1C 4 2] := by decide

/-! ### Witnesses: a concrete state and operands that meet all hypotheses of a statement, at the edges of its ranges -/

theorem witness_DecodeOfEncodeIsTheCommand : (Instr.keyAppend 1).wf = true ∧ (Instr.keyAppend 4).wf = true ∧
    (Instr.reduce 1).wf = true ∧ (Instr.reduce 255).wf = true ∧ (Instr.derive 1).wf = true ∧
    (Instr.derive 255).wf = true ∧ (Instr.keyBegin .sha512).wf = true ∧ Instr.hmac.wf = true := by decide

theorem witness_EncodeOfDecodeIsTheWord : decode 0x00FF0023#32 = .ok (.derive 255) ∧
    decode 0x00000C11#32 = .ok (.keyAppend 4) := by decide

theorem witness_HardwareResetFromEveryState :
    (accept .hmac (scheduled [.resetAssert])).events = .resetAssert :: [] ∧
    ({ scheduled [.resetRelease] with resetLine := true } : State).events = .resetRelease :: [] := ⟨rfl, rfl⟩

theorem witness_SresetIsPerformedInEveryState :
    (let s := accept .hmac (scheduled [.write 0x04 4 0x00000001])
     s.resetLine = false ∧ s.events = .write 0x04#7 4 0x00000001#32 :: []) ∧
    (let s := scheduled [.write 0x04 4 0x80000001]
     s.resetLine = false ∧ s.events = .write 0x04#7 4 0x80000001#32 :: [] ∧
      (0x80000001#32).extractLsb' 0 8 = 0x01#8 ∧ 0x80000001#32 ≠ 0x00000001#32) ∧
    ∃ t, exec .sreset failed = .next t := ⟨by decide, by decide, _, rfl⟩

theorem witness_StepRunsTheDecodedInstruction :
    (let s := scheduled [.write 0x04 4 0x00060023]
     s.resetLine = false ∧ s.events = .write 0x04#7 4 0x00060023#32 :: [] ∧
      decode 0x00060023#32 = .ok (.derive 6) ∧ s.busy = false ∧ s.err = false) ∧
    (let s := { failed with events := [.write 0x04 4 0x00000002] }
     s.resetLine = false ∧ decode 0x00000002#32 = .ok .clrErr ∧ s.busy = false ∧ s.err = true) ∧
    (let s := accept .nop (scheduled [.engine])
     s.events = .engine :: [] ∧ s.busy = true ∧ s.pending = some ⟨.nop, 0, 0⟩) ∧
    (let s := accept .nop State.reset
     s.events = [] ∧ s.busy = true ∧ s.pending = some ⟨.nop, 0, 0⟩) := by decide

theorem witness_PlacedWordRunsNext : State.reset.resetLine = false ∧
    decodeTableWord 32 0x00FF0022 = some (.reduce 255) ∧ State.reset.busy = false ∧ State.reset.err = false ∧
    decodeTableWord 32 0x00000001 = some .sreset := by decide

/-- KEY_APPEND up to exactly 2^32 - 1 bytes; HMAC and DERIVE with a key; CLR_ERR while ERR = 1. -/
theorem witness_AcceptanceLatchesTheOperands :
    (let s := { loading .sha1 [] with keyLen := 0xFFFFFFFB }
     s.busy = false ∧ s.err = false ∧ s.kstate = .loading ∧ s.keyLen.toNat + 4 ≤ 2 ^ 32 - 1) ∧
    (let s := ready .sha512 rfcKey
     s.busy = false ∧ s.err = false ∧ s.kstate = .ready) ∧
    failed.busy = false ∧ failed.err = true := by decide

theorem witness_CommandWhileBusyIsDropped :
    let s := accept .hmac (scheduled [.write 0x04 4 0x00000020])
    s.resetLine = false ∧ s.events = .write 0x04#7 4 0x00000020#32 :: [] ∧ s.busy = true ∧
      0x00000020#32 ≠ 0x00000001#32 := by decide

theorem witness_CommandWhileErrIsDiscarded :
    let s := { failed with events := [.write 0x04 4 0x00000003] }
    s.resetLine = false ∧ s.events = .write 0x04#7 4 0x00000003#32 :: [] ∧ s.busy = false ∧ s.err = true ∧
      0x00000003#32 ≠ 0x00000001#32 ∧ 0x00000003#32 ≠ 0x00000002#32 := by decide

theorem witness_UndecodedWordIsRejectedAtTheWrite :
    let s := scheduled [.write 0x04 4 0x00000022]
    s.resetLine = false ∧ s.events = .write 0x04#7 4 0x00000022#32 :: [] ∧ s.busy = false ∧ s.err = false ∧
      decode 0x00000022#32 = .error .eDigits := by decide

theorem witness_KeyCommandOutOfSequenceIsRejected :
    let s := ready .sha1 rfcKey
    s.busy = false ∧ s.err = false ∧ s.kstate ≠ .loading := by decide

theorem witness_DerivationWithoutAKeyIsRejected :
    let s := loading .sha1 rfcKey
    s.busy = false ∧ s.err = false ∧ s.kstate ≠ .ready := by decide

/-- One byte past 2^32 - 1. -/
theorem witness_OverlongKeyIsDiscarded :
    let s := { loading .sha1 [] with keyLen := 0xFFFFFFFC }
    s.busy = false ∧ s.err = false ∧ s.kstate = .loading ∧ s.keyLen.toNat + 4 > 2 ^ 32 - 1 := by decide

/-- For ControlCommandsComplete, KeyBeginCompletes, KeyAppendCompletes, KeyEndAndKeyZeroComplete, HmacCompletes,
TruncCompletes, ReduceCompletes and DeriveCompletes: each command pending, with DIG in its canonical form. -/
theorem witness_completions :
    ∀ i ∈ [Instr.nop, .clrErr, .keyBegin .sha256, .keyAppend 1, .keyAppend 4, .keyEnd, .keyZero, .hmac, .trunc .sha1,
        .trunc .sha512, .reduce 1, .reduce 255, .derive 1, .derive 255],
      (accept i (ready .sha1 rfcKey)).busy = true ∧
        (accept i (ready .sha1 rfcKey)).pending = some ⟨i, 0, 0⟩ ∧
        (accept i (ready .sha1 rfcKey)).dig.wf = true := by decide

theorem witness_DeriveIsHmacTruncReduceInSequence :
    let s := ready .sha256 rfcKey
    s.busy = false ∧ s.err = false ∧ s.resetLine = false ∧ s.kstate = .ready ∧ s.dig.wf = true ∧
      1 ≤ 1 ∧ 255 ≤ 255 := by decide

/-- Two states with the same key, algorithm and counter, and another digest, TRUNC and IE. -/
theorem witness_DeriveDependsOnItsInputsOnly :
    let s := accept (.derive 6) (ready .sha1 rfcKey)
    let s' := accept (.derive 6) { withDigest rfcKey (ready .sha1 rfcKey) with trunc := 5, ie := 0b111 }
    s.busy = true ∧ s'.busy = true ∧ s.pending = some ⟨.derive 6, 0, 0⟩ ∧ s'.pending = some ⟨.derive 6, 0, 0⟩ ∧
      s.dig.wf = true ∧ s'.dig.wf = true ∧ s.key = s'.key ∧ s.kalg = s'.kalg ∧ s ≠ s' := by decide

theorem witness_HmacInputsAreTwoBlocksEach : (zeros 8).length = 8 ∧ (zeros 64).length = digestLen .sha512 := by decide

theorem witness_LongKeyIsReplacedByItsHash : (zeros 65).length > blockLen .sha256 ∧
    (zeros 128).length = blockLen .sha512 := by decide

/-- A key padded to exactly B bytes. -/
theorem witness_TrailingZeroKeyBytesDoNotMatter : rfcKey.length + 44 ≤ blockLen .sha1 ∧
    rfcKey.length + 44 = 64 := by decide

theorem witness_TruncationReadsItsWindow : rfcKey.length = digestLen .sha1 := by decide

theorem witness_ReductionIsTheExactRemainder : 10 ≤ 10 := by decide

theorem witness_WindowAddressesMapToOffsets : 0x7F < 0x80 ∧
    (Config.base + 0x80 < Config.base ∨ Config.base + 0x80 ≤ Config.base + 0x80) := ⟨by decide, .inr (Nat.le_refl _)⟩

/-- A read at every register's offset, DIGEST0 and DIGEST15 among them, while BUSY = 0. -/
theorem witness_ReadsReturnTheRegisters :
    ∀ off ∈ [0x00#7, 0x04, 0x08, 0x0C, 0x10, 0x14, 0x18, 0x1C, 0x20, 0x24, 0x28, 0x2C, 0x40, 0x7C],
      (scheduled [.read off 4]).resetLine = false ∧ (scheduled [.read off 4]).events = .read off 4 :: [] ∧
        (scheduled [.read off 4]).busy = false := by decide

theorem witness_BusyReadsOfResultsReturnSomeValue :
    ∀ off ∈ [0x14#7, 0x2C, 0x40, 0x7C],
      let s := accept .hmac (scheduled [.read off 4])
      s.resetLine = false ∧ s.events = .read off 4 :: [] ∧ s.busy = true ∧
        (off ∈ [0x14#7, 0x20#7, 0x24#7, 0x28#7, 0x2C#7] ∨ (0x40 ≤ off.toNat ∧ off.toNat % 4 = 0)) := by decide

theorem witness_ReadsChangeNoRegister :
    (scheduled [.read 0x7C 4]).events = .read 0x7C#7 4 :: [] ∧ ∃ t, step (scheduled [.read 0x7C 4]) = .next t :=
  ⟨rfl, _, rfl⟩

theorem witness_BusErrorsAreExactlyTheBadTransactions :
    (scheduled [.read 0x30 4]).resetLine = false ∧ step (scheduled [.read 0x30 4]) = .fault .busError := ⟨rfl, rfl⟩

theorem witness_TransactionsInResetFault :
    let s := { scheduled [.write 0x04 4 0x00000001] with resetLine := true }
    s.resetLine = true ∧ step s = .fault .accessDuringReset := ⟨rfl, rfl⟩

/-- For ReadOnlyWritesAreIgnored, OperandWritesWhileIdleStore, DigestWriteSetsItsFourBytes,
StatusWriteClearsDoneAndOvrOnly and IeWriteStoresThreeBits: a write at every offset they name, while BUSY = 0. -/
theorem witness_writes_idle :
    ∀ off ∈ [0x00#7, 0x08, 0x0C, 0x10, 0x14, 0x18, 0x1C, 0x20, 0x24, 0x28, 0x2C, 0x40, 0x7C],
      (scheduled [.write off 4 0xFFFFFFFF]).resetLine = false ∧
        (scheduled [.write off 4 0xFFFFFFFF]).events = .write off 4 0xFFFFFFFF :: [] ∧
        (scheduled [.write off 4 0xFFFFFFFF]).busy = false ∧
        (scheduled [.write off 4 0xFFFFFFFF]).dig.wf = true := by decide

theorem witness_OperandWritesWhileBusyAreDropped :
    ∀ off ∈ [0x10#7, 0x18, 0x1C, 0x20, 0x40, 0x7C],
      let s := accept .hmac (scheduled [.write off 4 0])
      s.resetLine = false ∧ s.events = .write off 4 0 :: [] ∧ s.busy = true ∧
        (off ∈ [0x10#7, 0x18#7, 0x1C#7, 0x20#7] ∨ (0x40 ≤ off.toNat ∧ off.toNat % 4 = 0)) := by decide

theorem witness_KeyBytesAreNeverReadable :
    let s := { ready .sha1 rfcKey with events := [.read 0x10 4] }
    s.events = .read 0x10#7 4 :: [] ∧ ∃ t, step s = .next t := ⟨rfl, _, rfl⟩

theorem witness_ErrcodeHoldsTheNumberOfTheError : failed.errcode = some .eNoKey := rfl

theorem witness_CommandsLeaveCounterKeyDataAndEnables :
    Instr.hmac ≠ .sreset ∧ ∃ t, exec .hmac (ready .sha1 rfcKey) = .next t := ⟨by decide, _, rfl⟩

/-! ### States that meet the invariant -/

/-- DERIVE pending on a complete key. -/
def running (e : List Event) : State := { accept (.derive 6) (ready .sha256 rfcKey) with events := e }

theorem running_invariant (e : List Event) : Invariant (running e) where
  busy := rfl
  busyDone := fun _ => rfl
  keyLen := (by decide : (ready .sha256 rfcKey).keyLen.toNat = (ready .sha256 rfcKey).key.length)
  noKey := by intro h; cases h
  code := (by decide : (0 : Word).toNat < 10 ^ (0 : BitVec 8).toNat)
  codeTop := (by decide : (0 : Word).toNat < 2 ^ 31)
  err := rfl
  errKind := by intro h; cases h
  dig := rfl
  pending := by rintro p hp; cases hp; exact ⟨rfl, by decide, rfl, rfl, rfl, by intro h; cases h⟩
  inReset := by intro h; cases h

/-- The last byte of a key pending. -/
def appending (e : List Event) : State := { accept (.keyAppend 1) (loading .sha1 rfcKey) with events := e }

theorem appending_invariant (e : List Event) : Invariant (appending e) where
  busy := rfl
  busyDone := fun _ => rfl
  keyLen := (by decide : (loading .sha1 rfcKey).keyLen.toNat = (loading .sha1 rfcKey).key.length)
  noKey := by intro h; cases h
  code := (by decide : (0 : Word).toNat < 10 ^ (0 : BitVec 8).toNat)
  codeTop := (by decide : (0 : Word).toNat < 2 ^ 31)
  err := rfl
  errKind := by intro h; cases h
  dig := rfl
  pending := by rintro p hp; cases hp; exact ⟨rfl, by decide, rfl, rfl, rfl, by intro h; cases h⟩
  inReset := by intro h; cases h

/-- CLR_ERR pending after an error. -/
def clearing (e : List Event) : State := { accept .clrErr failed with events := e }

theorem clearing_invariant (e : List Event) : Invariant (clearing e) where
  busy := rfl
  busyDone := fun _ => rfl
  keyLen := (by decide : (failed).keyLen.toNat = (failed).key.length)
  noKey := fun _ => ⟨rfl, rfl⟩
  code := (by decide : (0 : Word).toNat < 10 ^ (0 : BitVec 8).toNat)
  codeTop := (by decide : (0 : Word).toNat < 2 ^ 31)
  err := rfl
  errKind := by intro h; cases h
  dig := rfl
  pending := by rintro p hp; cases hp; exact ⟨rfl, by decide, rfl, rfl, rfl, fun _ => rfl⟩
  inReset := by intro h; cases h

theorem witness_EveryStepKeepsTheInvariant :
    Invariant (running [.read 0x08 4]) ∧ ∃ t, step (running [.read 0x08 4]) = .next t :=
  ⟨running_invariant _, _, rfl⟩

theorem witness_CodeStaysBelowItsPowerOfTen :
    Invariant (running [.engine]) ∧ ∃ t, step (running [.engine]) = .next t :=
  ⟨running_invariant _, (step_engine (s := running [.engine]) rfl).symm ▸ engineStep_next _⟩

theorem witness_KeyStoreChangesOnlyByItsCommands :
    Invariant (appending [.engine]) ∧ after (step (appending [.engine])) (fun t => t.key) = some (rfcKey ++ [0]) :=
  ⟨appending_invariant _, by decide⟩

theorem witness_ErrorStaysUntilCleared :
    Invariant (clearing [.engine]) ∧ (clearing [.engine]).err = true ∧
      after (step (clearing [.engine])) (fun t => t.err) = some false :=
  ⟨clearing_invariant _, rfl, by decide⟩

theorem witness_PendingCommandIsAbortedOnlyByReset :
    Invariant (running [.write 0x10 4 0]) ∧ (running [.write 0x10 4 0]).pending = some ⟨.derive 6, 0, 0⟩ ∧
      ∃ t, step (running [.write 0x10 4 0]) = .next t :=
  ⟨running_invariant _, by decide, _, rfl⟩

theorem witness_AcceptedCommandCompletes :
    let s := running [.read 0x7C 4, .write 0x04 4 0x00000020, .write 0x08 4 0xFFFFFFFF]
    Invariant s ∧ s.busy = true ∧ ∀ e ∈ s.events, plainTransaction e = true ∨ e = .engine :=
  ⟨running_invariant _, rfl, by decide⟩

theorem witness_LoadKeyLoadsExactlyTheBytes :
    let s := ready .sha512 rfcKey
    s.busy = false ∧ s.err = false ∧ s.resetLine = false ∧ (List.replicate 5 (0 : Byte)).length ≤ 2 ^ 32 - 1 := by
  decide

end Sys2Proof.Tests
end

section
/-! PROOFS. DERIVE is a function of its inputs: what its completion writes is determined by the digest of the latched
counter under the key, and DIG's older bytes are all overwritten (R3, R240). -/

namespace Sys2Proof.Machine

/-- Every digest fits in DIG (R38, R140). -/
theorem length_hmacOf_le (p : Pending) (s : State) : (hmacOf p s).length ≤ 64 := by
  rw [hmacOf, length_hmac]
  cases s.kalg <;> decide

/-- The digest depends on the key, its algorithm and the latched counter only (R150). -/
theorem hmacOf_congr {p p' : Pending} {s s' : State} (hkey : s.key = s'.key) (halg : s.kalg = s'.kalg)
    (hctr : p.ctr = p'.ctr) : hmacOf p s = hmacOf p' s' := by
  simp only [hmacOf, hkey, halg, hctr]

/-- Storing a digest overwrites all of DIG, so two canonical buffers become the same data (R150). -/
theorem storeDigest_dig_congr {s s' : State} {d : List Byte} (hd : d.length ≤ 64) (hw : s.dig.wf = true)
    (hw' : s'.dig.wf = true) : (storeDigest d s).dig = (storeDigest d s').dig := by
  refine Memory.ext_of_wfFrom (storeDigest_wf hd hw) (storeDigest_wf hd hw') fun j => ?_
  rw [read_storeDigest hd hw, read_storeDigest hd hw']
  by_cases hj : j < 64
  · simp only [hj, if_true]
  · rw [Memory.read_ge hw (by simpa [digLen] using hj), Memory.read_ge hw' (by simpa [digLen] using hj)]

/-- R240, R306: the completion of DERIVE, as the state it leaves. -/
theorem exec_derive_pending {n : Nat} {s : State} {p : Pending} (hb : s.busy = true) (hp : s.pending = some p)
    (hc : p.cmd = .derive n) : exec (.derive n) s = .next (finish (effectState (.derive n) p s)) := by
  simpa only [hc] using exec_pending hb hp (by simp [hc])

/-- The five results of DERIVE, as functions of the algorithm and the digest (R240). -/
theorem effectState_derive_results (n : Nat) (p : Pending) (s : State) :
    let d := hmacOf p s
    let off := dtOffset (digestLen s.kalg) d
    let t := effectState (.derive n) p s
    t.dig = (storeDigest d s).dig ∧ t.toff = off ∧ t.trunc = dtValue off.toNat d ∧
      t.code = BitVec.ofNat 32 (red (dtValue off.toNat d) n) ∧ t.codeDigits = BitVec.ofNat 8 n :=
  ⟨rfl, rfl, rfl, rfl, rfl⟩

/-- Settles O27: equal inputs give equal digests, every result is a function of algorithm, digest and N, and a stored
digest leaves nothing of the older DIG. -/
theorem deriveDependsOnItsInputsOnly : Obligations.DeriveDependsOnItsInputsOnly := by
  unfold Obligations.DeriveDependsOnItsInputsOnly
  intro n s s' p p' hb hb' hp hp' hc hc' hw hw' hkey halg hctr
  refine ⟨_, _, exec_derive_pending hb hp hc, exec_derive_pending hb' hp' hc', ?_⟩
  obtain ⟨hdig, htoff, htrunc, hcode, hdigits⟩ := effectState_derive_results n p s
  obtain ⟨hdig', htoff', htrunc', hcode', hdigits'⟩ := effectState_derive_results n p' s'
  have hd : hmacOf p s = hmacOf p' s' := hmacOf_congr hkey halg hctr
  have hstore : (storeDigest (hmacOf p' s') s).dig = (storeDigest (hmacOf p' s') s').dig :=
    storeDigest_dig_congr (length_hmacOf_le p' s') hw hw'
  simp only [finish_dig, finish_toff, finish_trunc, finish_code, finish_codeDigits, hdig, hdig', htoff, htoff', htrunc,
    htrunc', hcode, hcode', hdigits, hdigits', hd, halg, hstore, and_self]

end Sys2Proof.Machine
end

section
/-! PROOFS. The invariant is kept by every step (R45). It splits in two: what it says of the key, the result registers,
the error and DIG (`DataOk`), and what it says of BUSY, DONE and the pending command (`ControlOk`). Each operation keeps
each part, and `step_case` says which operation a step is. -/

namespace Sys2Proof.Machine

variable {s t : State} {p : Pending}

/-! ### The two parts of the invariant -/

/-- The items of R45 on the key store, CODE, the error and DIG. -/
structure DataOk (s : State) : Prop where
  keyLen : s.keyLen.toNat = s.key.length
  noKey : s.kstate = .none → s.key = [] ∧ s.kalg = .sha1
  code : s.code.toNat < 10 ^ s.codeDigits.toNat
  codeTop : s.code.toNat < 2 ^ 31
  err : s.err = s.errcode.isSome
  errKind : s.errcode ≠ some .eInternal
  dig : s.dig.wf = true

/-- R26, R27, R354: BUSY stands exactly while a command is pending, with DONE = 0, and that command is one that could
be accepted. -/
structure ControlOk (s : State) : Prop where
  busy : s.busy = s.pending.isSome
  busyDone : s.busy = true → s.done = false
  pending : ∀ p, s.pending = some p → PendingOk p s

theorem Invariant.dataOk (h : Invariant s) : DataOk s := { h with }

theorem Invariant.controlOk (h : Invariant s) : ControlOk s := { h with }

/-- With the reset input released the two parts are the invariant. -/
theorem Invariant.of_released (hl : s.resetLine = false) (hd : DataOk s) (hc : ControlOk s) : Invariant s :=
  { hd, hc with inReset := fun h => absurd (hl.symm.trans h) Bool.false_ne_true }

theorem Invariant.pending_eq_none (h : Invariant s) (hb : s.busy = false) : s.pending = none := by
  simpa using h.busy.symm.trans hb

/-- An idle core meets the control part, whatever DONE is. -/
theorem ControlOk.of_idle (hb : s.busy = false) (hp : s.pending = none) : ControlOk s where
  busy := by rw [hb, hp]; rfl
  busyDone h := absurd (hb.symm.trans h) Bool.false_ne_true
  pending p h := absurd (hp.symm.trans h) nofun

/-- A state check reads KSTATE and KEY_LEN only (R311). -/
theorem stateCheck_congr (i : Instr) (hk : t.kstate = s.kstate) (hl : t.keyLen = s.keyLen) :
    stateCheck i t = stateCheck i s := by
  cases i <;> simp only [stateCheck, needLoading, needReady, hk, hl]

/-- The pending command stays acceptable where the registers it latched and the fields it was checked on stay. -/
theorem PendingOk.congr (h : PendingOk p s) (hkd : t.keyData = s.keyData) (hctr : counter t = counter s)
    (hk : t.kstate = s.kstate) (hl : t.keyLen = s.keyLen) (he : t.err = s.err) : PendingOk p t where
  wf := h.wf
  notSreset := h.notSreset
  kd := h.kd.trans hkd.symm
  ctr := h.ctr.trans hctr.symm
  checked := (stateCheck_congr p.cmd hk hl).trans h.checked
  errOnly e := h.errOnly (he.symm.trans e)

/-! ### What every operation does to the data -/

theorem dataOk_resetValues (s : State) : DataOk (resetValues s) where
  keyLen := rfl
  noKey _ := ⟨rfl, rfl⟩
  code := by simp
  codeTop := by simp
  err := rfl
  errKind := by simp
  dig := rfl

/-- R120, R302: a discarded key is the empty one. -/
theorem DataOk.discardKey (h : DataOk s) : DataOk (discardKey s) :=
  { h with
    keyLen := rfl
    noKey := fun _ => ⟨rfl, rfl⟩ }

/-- R302: every recorded error but E_INTERNAL keeps the data. -/
theorem DataOk.raise (h : DataOk s) {e : ErrCode} (he : e ≠ .eInternal) : DataOk (raise e s) := by
  have hrec : DataOk { s with err := true, errcode := some e, done := true } :=
    { h with
      err := rfl
      errKind := fun hi => he (Option.some.inj hi) }
  unfold Machine.raise
  split
  · exact hrec.discardKey
  · exact hrec

/-- R102: with no error recorded nothing is asked of ERRCODE. -/
theorem DataOk.clearError (h : DataOk s) : DataOk (clearError s) :=
  { h with
    err := rfl
    errKind := nofun }

/-- R120: a new key is empty, and a key is being appended to it. -/
theorem DataOk.beginKey (h : DataOk s) (a : Alg) : DataOk (beginKey a s) :=
  { h with
    keyLen := rfl
    noKey := nofun }

/-- R121: the bytes fit, so KEY_LEN counts them. -/
theorem DataOk.appendKey (h : DataOk s) {nb : Nat} (p : Pending) (hk : s.kstate = .loading) (hnb : nb ≤ 4)
    (hl : s.keyLen.toNat + nb ≤ maxKeyLen) : DataOk (appendKey nb p s) :=
  { h with
    keyLen := by
      have hmax : maxKeyLen = 4294967295 := rfl
      rw [appendKey_keyLen, appendKey_key, List.length_append, length_keyBytes, ← h.keyLen, BitVec.toNat_add,
        BitVec.toNat_ofNat]
      omega
    noKey := fun hn => absurd (hk.symm.trans hn) nofun }

/-- R122: a complete key is a key, whatever its bytes. -/
theorem DataOk.endKey (h : DataOk s) : DataOk (endKey s) := { h with noKey := nofun }

/-- R150: every digest fits in DIG. -/
theorem DataOk.storeDigest (h : DataOk s) {d : List Byte} (hd : d.length ≤ 64) : DataOk (storeDigest d s) :=
  { h with dig := storeDigest_wf hd h.dig }

/-- R200: TOFF and TRUNC are bounded by their types. -/
theorem DataOk.truncated (h : DataOk s) (a : Alg) (d : List Byte) : DataOk (truncated a d s) := { h with }

/-- R220, R221: the remainder is below 10^N, and N fits CODE_DIGITS. -/
theorem DataOk.reduceTo (h : DataOk s) (v : BitVec 31) {n : Nat} (hn : n ≤ 255) : DataOk (reduceTo v n s) :=
  { h with
    code := by
      have hdigits : (BitVec.ofNat 8 n).toNat = n := Nat.mod_eq_of_lt (show n < 2 ^ 8 by omega)
      rw [reduceTo_code, reduceTo_codeDigits, toNat_code, hdigits]
      exact Nat.mod_lt _ (Nat.pow_pos (by decide))
    codeTop := by
      rw [reduceTo_code, toNat_code]
      exact Nat.lt_of_le_of_lt (Nat.mod_le _ _) v.isLt }

/-- R306: the completion effect of an acceptable command keeps the data. -/
theorem DataOk.effectState (h : DataOk s) {i : Instr} (hw : i.wf = true) (hc : stateCheck i s = none) (p : Pending) :
    DataOk (effectState i p s) := by
  cases i with
  | nop => exact h
  | sreset => exact h
  | clrErr => exact h.clearError
  | keyBegin a => exact h.beginKey a
  | keyAppend nb =>
    obtain ⟨hk, hl⟩ := stateCheck_keyAppend_eq_none.1 hc
    simp only [Instr.wf, wfByteCount, Bool.and_eq_true, decide_eq_true_eq] at hw
    exact h.appendKey p hk hw.2 hl
  | keyEnd => exact h.endKey
  | keyZero => exact h.discardKey
  | hmac => exact h.storeDigest (length_hmacOf_le p s)
  | trunc a => exact h.truncated a _
  | reduce n =>
    simp only [Instr.wf, wfDigits, Bool.and_eq_true, decide_eq_true_eq] at hw
    exact h.reduceTo _ hw.2
  | derive n =>
    simp only [Instr.wf, wfDigits, Bool.and_eq_true, decide_eq_true_eq] at hw
    exact ((h.storeDigest (length_hmacOf_le p s)).truncated _ _).reduceTo _ hw.2

/-! ### What every kind of step does to the invariant -/

/-- Taking an event off the schedule changes no piece of the machine's state. -/
theorem Invariant.taken (h : Invariant s) : Invariant (taken s) :=
  { h with
    pending := fun p hp => (h.pending p hp).congr rfl rfl rfl rfl rfl
    inReset := fun hl => congrArg Machine.taken (h.inReset hl) }

/-- R340: a reset edge leaves the reset values, which meet the invariant at either level of the input. -/
theorem invariant_hardReset (level : Bool) (s : State) : Invariant (hardReset level s) :=
  { dataOk_resetValues s, ControlOk.of_idle (s := hardReset level s) rfl rfl with
    inReset := fun hl => by rw [show level = true from hl]; rfl }

/-- R101: SRESET leaves the reset values but for DONE, which may be set while the core is idle. -/
theorem invariant_softReset (hl : s.resetLine = false) : Invariant (softReset s) :=
  .of_released hl { dataOk_resetValues s with } (.of_idle rfl rfl)

/-- R304: OVR is no part of the invariant. -/
theorem Invariant.drop (h : Invariant s) (hl : s.resetLine = false) : Invariant (drop s) :=
  .of_released hl { h with }
    { h with pending := fun p hp => (h.pending p hp).congr rfl rfl rfl rfl rfl }

/-- R303: DONE may be set while the core is idle. -/
theorem Invariant.discard (h : Invariant s) (hl : s.resetLine = false) (hb : s.busy = false) : Invariant (discard s) :=
  .of_released hl { h with } (.of_idle hb (h.pending_eq_none hb))

/-- R302: a rejected command leaves an idle core with one error recorded. -/
theorem Invariant.raise (h : Invariant s) (hl : s.resetLine = false) (hb : s.busy = false) {e : ErrCode}
    (he : e ≠ .eInternal) : Invariant (raise e s) :=
  .of_released (by simpa using hl) (h.dataOk.raise he)
    (.of_idle (by simpa using hb) (by simpa using h.pending_eq_none hb))

/-- R301: what is accepted is what `PendingOk` asks for. -/
theorem Invariant.accept (h : Invariant s) (hl : s.resetLine = false) {i : Instr} (hw : i.wf = true)
    (hs : i ≠ .sreset) (he : s.err = true → i = .clrErr) (hc : stateCheck i s = none) : Invariant (accept i s) :=
  .of_released hl { h with }
    { busy := rfl
      busyDone := fun _ => rfl
      pending := by
        rintro p ⟨⟩
        exact ⟨hw, hs, rfl, rfl, (stateCheck_congr i rfl rfl).trans hc, he⟩ }

/-- R340: while the reset input is asserted nothing is pending. -/
theorem Invariant.released_of_pending (h : Invariant s) (hp : s.pending = some p) : s.resetLine = false :=
  Bool.eq_false_iff.2 fun hl => by
    have hnone : s.pending = none := congrArg State.pending (h.inReset hl)
    simp [hnone] at hp

/-- R306: the completion of the pending command. -/
theorem Invariant.complete (h : Invariant s) (hp : s.pending = some p) :
    Invariant (finish (effectState p.cmd p s)) :=
  have ok := h.pending p hp
  .of_released ((effectState_own p.cmd p s).1.trans (h.released_of_pending hp))
    { h.dataOk.effectState ok.wf ok.checked p with } (.of_idle rfl rfl)

/-- R68: a read leaves every register. -/
theorem Invariant.readReg (h : Invariant s) (hl : s.resetLine = false) (r : Reg) : Invariant (readReg r s) := by
  obtain ⟨v, d, hr⟩ := readReg_frame r s
  rw [hr]
  exact .of_released hl { h with }
    { h with pending := fun p hp => (h.pending p hp).congr rfl rfl rfl rfl rfl }

/-- R65: while BUSY = 1 an operand write is dropped, so only its effect on an idle core matters. -/
theorem Invariant.writeOperand (h : Invariant s) (hl : s.resetLine = false) {perform : State → State}
    (hidle : s.busy = false → s.pending = none → Invariant (perform s)) : Invariant (writeOperand perform s) := by
  unfold Machine.writeOperand
  cases hb : s.busy with
  | true => exact h.drop hl
  | false => exact hidle hb (h.pending_eq_none hb)

/-- R38: a DIGEST write stays inside the buffer. -/
theorem writeDigest_wf (h : s.dig.wf = true) (i : Fin 16) (v : Word) : (writeDigest i v s).dig.wf = true :=
  Memory.writeBytes_wf _ h (by have := i.isLt; simp [digLen]; omega)

/-- R63, R65: a read-only register stays, STATUS and IE are written in any phase, an operand register while idle. -/
theorem Invariant.writeReg (h : Invariant s) (hl : s.resetLine = false) (r : Reg) (v : Word) :
    Invariant (writeReg r v s) := by
  cases r with
  | id | cmd | keyLen | toff | code | codeDigits => exact h
  | status =>
    refine .of_released hl { h with } { h with busyDone := ?_, pending := ?_ }
    · intro hb
      rw [Machine.writeReg, writeStatus_done, h.busyDone hb, Bool.false_and]
    · exact fun p hp => (h.pending p hp).congr rfl rfl rfl rfl rfl
  | ie =>
    exact .of_released hl { h with }
      { h with pending := fun p hp => (h.pending p hp).congr rfl rfl rfl rfl rfl }
  | keyData | counterHi | counterLo | trunc =>
    rw [Machine.writeReg]
    refine h.writeOperand hl fun hb hp => ?_
    exact .of_released hl { h with } (.of_idle hb hp)
  | digest i =>
    refine h.writeOperand hl fun hb hp => ?_
    exact .of_released hl { h with dig := writeDigest_wf h.dig i v } (.of_idle hb hp)

/-- Settles O53: each kind of step keeps the data part and the control part. -/
theorem everyStepKeepsTheInvariant : Obligations.EveryStepKeepsTheInvariant := by
  unfold Obligations.EveryStepKeepsTheInvariant
  intro s t hs h
  have hi := hs.taken
  cases step_case h with
  | idle => exact hi
  | completed p _ _ hp => exact hi.complete hp
  | abnormal p _ _ hp hsr => exact absurd hsr (hs.pending p hp).notSreset
  | read r _ hl => exact hi.readReg hl r
  | write r v _ hl => exact hi.writeReg hl r v
  | performed hc => exact invariant_softReset hc.released
  | dropped w hc => exact hi.drop hc.released
  | discarded w hc _ _ hb => exact hi.discard hc.released hb
  | undecoded w e hc hb _ hd => exact hi.raise hc.released hb fun he => decode_ne_internal w (he ▸ hd)
  | rejected w i e hc hb _ _ hk => exact hi.raise hc.released hb fun he => stateCheck_ne_internal i s (he ▸ hk)
  | accepted w i hc hsr hb he hd hk =>
    exact hi.accept hc.released (decode_wf hd) hsr he ((stateCheck_taken i s).trans hk)
  | asserted => exact invariant_hardReset true _
  | released => exact invariant_hardReset false _

/-- Settles O52: reset is the state a released reset input leaves. -/
theorem invariantHoldsAtReset : Obligations.InvariantHoldsAtReset := invariant_hardReset false State.reset

/-- Settles O54: the invariant after the step, read through the register window; the rest are widths. -/
theorem codeStaysBelowItsPowerOfTen : Obligations.CodeStaysBelowItsPowerOfTen := by
  unfold Obligations.CodeStaysBelowItsPowerOfTen
  intro s t hs h
  have ht : Invariant t := everyStepKeepsTheInvariant s t hs h
  have hdigits : (regValue .codeDigits t).toNat = t.codeDigits.toNat := BitVec.toNat_setWidth_of_le (by decide)
  have htrunc : (regValue .trunc t).toNat = t.trunc.toNat := BitVec.toNat_setWidth_of_le (by decide)
  have htoff : (regValue .toff t).toNat = t.toff.toNat := BitVec.toNat_setWidth_of_le (by decide)
  rw [hdigits, htrunc, htoff]
  exact ⟨ht.code, Nat.le_of_lt_succ t.codeDigits.isLt, ht.keyLen, t.trunc.isLt, t.toff.isLt⟩

end Sys2Proof.Machine
end

section
/-! PROOFS. What a step may change: the key store only by its commands (R40), the counter, KEY_DATA and IE by no command
(R36, R33, R32), and a recorded error only by what clears it (R28, R303). -/

namespace Sys2Proof.Machine

variable {s t : State}

/-! ### The key store -/

/-- What a completion effect makes of the key bytes (R120, R121, R123). -/
theorem effectState_key_cases (i : Instr) (p : Pending) (s : State) :
    (effectState i p s).key = s.key ∨
      ((effectState i p s).key = [] ∧ ((∃ a, i = .keyBegin a) ∨ i = .keyZero)) ∨
      ∃ nb, i = .keyAppend nb ∧ (effectState i p s).key = s.key ++ keyBytes p.kd nb := by
  cases i with
  | keyBegin a => exact .inr (.inl ⟨rfl, .inl ⟨a, rfl⟩⟩)
  | keyZero => exact .inr (.inl ⟨rfl, .inr rfl⟩)
  | keyAppend nb => exact .inr (.inr ⟨nb, rfl, rfl⟩)
  | _ => exact .inl rfl

/-- Only KEY_APPEND can be rejected with E_KEYLEN, and only past the greatest length (R311). -/
theorem stateCheck_eq_keyLen {i : Instr} (h : stateCheck i s = some .eKeyLen) :
    ∃ nb, i = .keyAppend nb ∧ maxKeyLen < s.keyLen.toNat + nb := by
  cases i with
  | keyAppend nb =>
    refine ⟨nb, rfl, Nat.lt_of_not_le fun hle => ?_⟩
    by_cases hk : s.kstate = .loading
    · rw [stateCheck_keyAppend_eq_none.2 ⟨hk, hle⟩] at h
      cases h
    · simp [stateCheck, needLoading, hk] at h
  | keyEnd => by_cases hk : s.kstate = .loading <;> simp [stateCheck, needLoading, hk] at h
  | hmac => by_cases hk : s.kstate = .ready <;> simp [stateCheck, needReady, hk] at h
  | derive n => by_cases hk : s.kstate = .ready <;> simp [stateCheck, needReady, hk] at h
  | _ => cases h

/-- R90: the errors of decoding; those of the state check are not among them. -/
theorem decode_error_cases {w : Word} {e : ErrCode} (h : decode w = .error e) :
    e = .eOpc ∨ e = .eRsvd ∨ e = .eAlg ∨ e = .eDigits := by
  unfold decode at h
  split at h
  · cases h; exact .inl rfl
  · split at h
    · cases h; exact .inr (.inl rfl)
    · unfold decodeFields at h
      repeat' split at h
      all_goals cases h
      all_goals simp

/-- R68: no read changes the key store or the recorded error. -/
theorem readReg_key_error (r : Reg) (s : State) :
    (readReg r s).key = s.key ∧ (readReg r s).err = s.err ∧ (readReg r s).errcode = s.errcode := by
  obtain ⟨v, d, hr⟩ := readReg_frame r s
  rw [hr]
  exact ⟨rfl, rfl, rfl⟩

/-- R28, R40: no write to a register other than CMD changes the key store or the recorded error. -/
theorem writeReg_key_error (r : Reg) (v : Word) (s : State) :
    (writeReg r v s).key = s.key ∧ (writeReg r v s).err = s.err ∧ (writeReg r v s).errcode = s.errcode := by
  obtain ⟨_, _, _, _, _, _, _, _, hr⟩ := writeReg_frame r v s
  rw [hr]
  exact ⟨rfl, rfl, rfl⟩

/-- Settles O55: the key bytes over each kind of step. -/
theorem keyStoreChangesOnlyByItsCommands : Obligations.KeyStoreChangesOnlyByItsCommands := by
  unfold Obligations.KeyStoreChangesOnlyByItsCommands
  intro s t hs h
  cases step_case h with
  | idle | dropped | discarded | accepted => exact .inl rfl
  | read r => exact .inl (readReg_key_error r (taken s)).1
  | write r v => exact .inl (writeReg_key_error r v (taken s)).1
  | abnormal p _ _ hp hsr => exact absurd hsr (hs.pending p hp).notSreset
  | performed hc =>
    obtain ⟨rest, he⟩ := hc.event
    exact .inr (.inl ⟨rfl, rest, .inr (.inr he)⟩)
  | asserted rest he => exact .inr (.inl ⟨rfl, rest, .inl he⟩)
  | released rest he => exact .inr (.inl ⟨rfl, rest, .inr (.inl he)⟩)
  | completed p _ hb hp =>
    obtain hkey | ⟨hkey, hcmd⟩ | ⟨nb, hcmd, hkey⟩ := effectState_key_cases p.cmd p (taken s)
    · exact .inl hkey
    · exact .inr (.inr (.inl ⟨hkey, hb, rfl, p, hp, hcmd⟩))
    · have hload : s.kstate = .loading := (stateCheck_keyAppend_eq_none.1 (hcmd ▸ (hs.pending p hp).checked)).1
      rw [keyBytes_eq] at hkey
      exact .inr (.inr (.inr (.inl ⟨hload, hb, rfl, p, nb, hp, hcmd, hkey⟩)))
  | undecoded w e _ _ _ hd =>
    have he : e ≠ .eKeyLen := by rintro rfl; simpa using decode_error_cases hd
    exact .inl (by rw [raise_key, if_neg he]; rfl)
  | rejected w i e hc hb _ hd hk =>
    by_cases he : e = .eKeyLen
    · subst he
      obtain ⟨nb, rfl, hlen⟩ := stateCheck_eq_keyLen hk
      obtain ⟨rest, hev⟩ := hc.event
      exact .inr (.inr (.inr (.inr ⟨by simp, hb, by simp, w, nb, rest, hev, hd, hlen⟩)))
    · exact .inl (by rw [raise_key, if_neg he]; rfl)

/-! ### The counter, KEY_DATA and IE -/

/-- Everything `exec` of a command other than SRESET can answer (R300, R306). -/
theorem exec_cases {i : Instr} (hs : i ≠ .sreset) (h : exec i s = .next t) :
    (∃ p, s.pending = some p ∧ p.cmd = i ∧ t = finish (effectState i p s)) ∨ t = drop s ∨ t = discard s ∨
      (∃ e, stateCheck i s = some e ∧ t = raise e s) ∨ t = accept i s := by
  rw [exec_eq_command hs, command] at h
  split at h
  · split at h
    · next p hp =>
      split at h <;> cases h
      · next hc => exact .inl ⟨p, hp, hc, rfl⟩
      · exact .inr (.inl rfl)
    · cases h; exact .inr (.inl rfl)
  · split at h
    · cases h; exact .inr (.inr (.inl rfl))
    · split at h <;> cases h
      · next e hk => exact .inr (.inr (.inr (.inl ⟨e, hk, rfl⟩)))
      · exact .inr (.inr (.inr (.inr rfl)))

/-- No completion effect touches the registers only the host writes. -/
theorem effectState_hostRegs (i : Instr) (p : Pending) (s : State) :
    (effectState i p s).counterHi = s.counterHi ∧ (effectState i p s).counterLo = s.counterLo ∧
      (effectState i p s).keyData = s.keyData ∧ (effectState i p s).ie = s.ie := by
  cases i <;> exact ⟨rfl, rfl, rfl, rfl⟩

/-- Settles O56: each answer of the command unit leaves them. -/
theorem commandsLeaveCounterKeyDataAndEnables : Obligations.CommandsLeaveCounterKeyDataAndEnables := by
  unfold Obligations.CommandsLeaveCounterKeyDataAndEnables
  intro i s t hs h
  obtain ⟨p, -, -, rfl⟩ | rfl | rfl | ⟨e, -, rfl⟩ | rfl := exec_cases hs h
  case inr.inr.inr.inl => simp
  case inl => exact effectState_hostRegs i p s
  all_goals exact ⟨rfl, rfl, rfl, rfl⟩

/-! ### The recorded error -/

/-- Settles O57: while ERR = 1 only CLR_ERR can be pending, no error is recorded over the first, and the rest of the
steps leave both fields. -/
theorem errorStaysUntilCleared : Obligations.ErrorStaysUntilCleared := by
  unfold Obligations.ErrorStaysUntilCleared
  intro s t hs herr h
  cases step_case h with
  | idle | dropped | discarded | accepted => exact .inl ⟨herr, rfl⟩
  | read r =>
    obtain ⟨-, he, hcode⟩ := readReg_key_error r (taken s)
    exact .inl ⟨he.trans herr, hcode⟩
  | write r v =>
    obtain ⟨-, he, hcode⟩ := writeReg_key_error r v (taken s)
    exact .inl ⟨he.trans herr, hcode⟩
  | abnormal p _ _ hp hsr => exact absurd hsr (hs.pending p hp).notSreset
  | undecoded w e _ _ he | rejected w i e _ _ he => exact absurd (herr.symm.trans he) nofun
  | completed p _ hb hp => exact .inr (.inr ⟨hb, rfl, p, hp, (hs.pending p hp).errOnly herr⟩)
  | performed hc =>
    obtain ⟨rest, he⟩ := hc.event
    exact .inr (.inl ⟨rest, .inr (.inr he)⟩)
  | asserted rest he => exact .inr (.inl ⟨rest, .inl he⟩)
  | released rest he => exact .inr (.inl ⟨rest, .inr (.inl he)⟩)

end Sys2Proof.Machine
end

section
/-! PROOFS. A step runs the decoded command (R24, R300, R306), and the word placed by `withFetchWord` is the next one to
run. -/

namespace Sys2Proof.Machine

variable {s : State}

/-- R300: a word is given to the command unit where it is decoded at all. -/
theorem present_eq_exec {w : Word} {i : Instr} (hd : decode w = .ok i)
    (hi : i = .sreset ∨ (s.busy = false ∧ (s.err = true → i = .clrErr))) : present w s = exec i s := by
  obtain rfl | ⟨hb, he⟩ := hi
  · rw [show w = 0x00000001#32 from decode_sreset hd, present_sreset]
  · exact present_decoded hb he hd

/-- R306: while BUSY = 1 the engine's step is the pending command's. -/
theorem engineStep_pending {p : Pending} (hb : s.busy = true) (hp : s.pending = some p) :
    engineStep s = exec p.cmd s := by
  simp [engineStep, hb, hp]

/-- Settles O9: a CMD write presents its word, and the engine takes what is pending. -/
theorem stepRunsTheDecodedInstruction : Obligations.StepRunsTheDecodedInstruction := by
  unfold Obligations.StepRunsTheDecodedInstruction
  refine ⟨fun s w i rest hl he hd hi => ?_, fun s p rest he hb hp => ?_, fun s p he hb hp => ?_⟩
  · exact (step_command hl he).trans (present_eq_exec hd hi)
  · exact (step_engine he).trans (engineStep_pending hb hp)
  · exact (step_nil he).trans (engineStep_pending hb hp)

/-- A word the opcode table decodes is a CMD word with its upper bits 0. -/
theorem decode_of_decodeTableWord {nbits w : Nat} {i : Instr} (h : decodeTableWord nbits w = some i) :
    decode (BitVec.ofNat 32 (w % 2 ^ nbits)) = .ok i := by
  unfold decodeTableWord at h
  split at h
  · next hd => rw [hd, Option.some.inj h]
  · cases h

/-- Settles O10: the placed word is a CMD write at the head of the events, and taking it leaves the state itself. -/
theorem placedWordRunsNext : Obligations.PlacedWordRunsNext := by
  unfold Obligations.PlacedWordRunsNext
  intro s w i hl hd hi
  exact stepRunsTheDecodedInstruction.1 (s.withFetchWord 32 w) _ i s.events hl rfl (decode_of_decodeTableWord hd) hi

end Sys2Proof.Machine
end

section
/-! PROOFS. The STATUS word and IRQ, field by field (R25, R28, R30, R31, R43), and their values at reset (R44). -/

namespace Sys2Proof.Machine

/-! ### The fields of STATUS (R25) -/

/-- R26 to R29: the one-bit fields. -/
theorem statusWord_flags (s : State) :
    (statusWord s).getLsbD 0 = s.busy ∧ (statusWord s).getLsbD 1 = s.done ∧ (statusWord s).getLsbD 2 = s.err ∧
      (statusWord s).getLsbD 3 = s.ovr := by
  refine ⟨?_, ?_, ?_, ?_⟩
  all_goals
    rw [statusWord]
    repeat rw [BitVec.getLsbD_append]
    simp

/-- R28, R30, R31: the wider fields. -/
theorem statusWord_fields (s : State) :
    (statusWord s).extractLsb' 4 2 = s.kstate.code ∧ (statusWord s).extractLsb' 6 2 = s.kalg.code ∧
      (statusWord s).extractLsb' 8 4 = errcodeField s.errcode := by
  refine ⟨?_, ?_, ?_⟩
  all_goals
    rw [statusWord]
    repeat rw [BitVec.extractLsb'_append_eq_of_le (by decide)]
    exact BitVec.extractLsb'_append_eq_right

/-- Fields side by side, as a number. -/
theorem toNat_append_add {n k : Nat} (x : BitVec n) (y : BitVec k) :
    (x ++ y).toNat = x.toNat * 2 ^ k + y.toNat := by
  rw [BitVec.toNat_append, ← Nat.shiftLeft_add_eq_or_of_lt y.isLt, Nat.shiftLeft_eq]

/-- R25: bits 31:12 read 0. -/
theorem toNat_statusWord_lt (s : State) : (statusWord s).toNat < 2 ^ 12 := by
  rw [statusWord]
  repeat rw [toNat_append_add]
  have := Bool.toNat_lt s.busy; have := Bool.toNat_lt s.done
  have := Bool.toNat_lt s.err; have := Bool.toNat_lt s.ovr
  have hupper : (0 : BitVec 20).toNat = 0 := rfl
  simp only [BitVec.toNat_ofBool, hupper]
  omega

/-- R30: the encoding of KSTATE. -/
theorem KState.code_iff (k : KState) :
    (k.code = 0b00#2 ↔ k = .none) ∧ (k.code = 0b01#2 ↔ k = .loading) ∧ (k.code = 0b10#2 ↔ k = .ready) := by
  cases k <;> decide

/-- R31, R83: the encoding of KALG. -/
theorem algCode_iff (a : Alg) :
    (a.code = 0b00#2 ↔ a = .sha1) ∧ (a.code = 0b01#2 ↔ a = .sha256) ∧ (a.code = 0b10#2 ↔ a = .sha512) := by
  cases a <;> decide

/-- R310: code 0 is no error, and 8 is the last code. -/
theorem errcodeField_range (e : Option ErrCode) :
    (errcodeField e = 0#4 ↔ e = none) ∧ (errcodeField e).toNat ≤ 8 := by
  cases e with
  | none => decide
  | some c => cases c <;> decide

/-- Settles O49: each field of the word is its encoding, and the encodings are injective. -/
theorem statusWordHasItsFields : Obligations.StatusWordHasItsFields := by
  unfold Obligations.StatusWordHasItsFields
  intro s
  obtain ⟨hbusy, hdone, herr, hovr⟩ := statusWord_flags s
  obtain ⟨hnone, hloading, hready⟩ := s.kstate.code_iff
  obtain ⟨hsha1, hsha256, hsha512⟩ := algCode_iff s.kalg
  obtain ⟨hzero, hmax⟩ := errcodeField_range s.errcode
  obtain ⟨hkstate, hkalg, herrcode⟩ := statusWord_fields s
  rw [hkstate, hkalg, herrcode]
  exact ⟨hbusy, hdone, herr, hovr, hnone, hloading, hready, hsha1, hsha256, hsha512, hzero, hmax,
    toNat_statusWord_lt s⟩

/-! ### IRQ and reset -/

/-- Settles O51: the flags IRQ reads are the STATUS bits. -/
theorem irqIsALevelOfEnablesAndStatus : Obligations.IrqIsALevelOfEnablesAndStatus := by
  unfold Obligations.IrqIsALevelOfEnablesAndStatus
  intro s
  obtain ⟨-, hdone, herr, hovr⟩ := statusWord_flags s
  simp only [irq, doneIe, errIe, ovrIe, hdone, herr, hovr, Bool.or_eq_true, Bool.and_eq_true, or_assoc]

/-- Settles O6: reset is one state, so every clause is read off it; no byte of DIG is listed. -/
theorem resetValuesAreTheSpecs : Obligations.ResetValuesAreTheSpecs := by
  unfold Obligations.ResetValuesAreTheSpecs
  have hdig : ∀ i, i < 64 → State.reset.dig.read i = 0 := fun _ _ => rfl
  exact ⟨rfl, rfl, rfl, rfl, rfl, rfl, rfl, rfl, rfl, rfl, rfl, rfl, rfl, rfl, rfl, rfl, rfl, rfl, rfl, hdig,
    rfl, rfl⟩

end Sys2Proof.Machine
end

section
/-! PROOFS. What the host reads and writes through the register window (R22 to R41, R63 to R66). -/

namespace Sys2Proof.Machine

variable {s t : State} {rest : List Event}

/-! ### Reads -/

/-- A register's value does not depend on the events to come. -/
theorem regValue_events (r : Reg) (s : State) (rest : List Event) :
    regValue r { s with events := rest } = regValue r s := by
  cases r <;> rfl

/-- R64, R66: a read returns the register's value and changes nothing else, unless it is a result while BUSY = 1. -/
theorem readReturns_regValue (r : Reg) {ok : State → Prop} {v : State → Word} (hv : ∀ s, regValue r s = v s)
    (hok : ∀ s, ok s → isResult r = false ∨ s.busy = false) : ReadReturns r.offset ok v := by
  intro s rest hl he hs
  have hdefinite : ¬ (s.busy = true ∧ isResult r = true) := by
    obtain h | h := hok s hs <;> simp [h]
  rw [step_read hl he (regAt_offset r), readReg, if_neg hdefinite, regValue_events, hv]

/-- A register narrower than 32 bits is read with zeros above it. -/
theorem setWidth_eq_zero_append {n k : Nat} (x : BitVec n) : x.setWidth (k + n) = 0#k ++ x := by
  apply BitVec.eq_of_toNat_eq
  rw [BitVec.toNat_setWidth_of_le (Nat.le_add_left n k), toNat_append_add]
  simp

/-- BE of four bytes, as a word. -/
theorem ofNat_be_four (a b c d : Byte) : BitVec.ofNat 32 (be [a, b, c, d]) = a ++ b ++ c ++ d := by
  apply BitVec.eq_of_toNat_eq
  have := a.isLt; have := b.isLt; have := c.isLt; have := d.isLt
  repeat rw [toNat_append_add]
  simp only [be, List.foldl, BitVec.toNat_ofNat]
  omega

theorem digestWord_eq (m : Memory) (i : Fin 16) : digestWord m i =
    m.read (4 * i) ++ m.read (4 * i + 1) ++ m.read (4 * i + 2) ++ m.read (4 * i + 3) :=
  ofNat_be_four _ _ _ _

/-- Settles O36: each register of the window at its offset; the narrow ones and DIGESTi spelled out in bits. -/
theorem readsReturnTheRegisters : Obligations.ReadsReturnTheRegisters := by
  unfold Obligations.ReadsReturnTheRegisters
  refine ⟨?id, ?cmd, ?status, ?ie, ?keyData, ?keyLen, ?counterHi, ?counterLo, ?trunc, ?toff, ?code, ?codeDigits,
    ?digest⟩
  case id => exact readReturns_regValue .id (fun _ => rfl) (fun _ _ => .inl rfl)
  case cmd => exact readReturns_regValue .cmd (fun _ => rfl) (fun _ _ => .inl rfl)
  case status => exact readReturns_regValue .status (fun _ => rfl) (fun _ _ => .inl rfl)
  case ie => exact readReturns_regValue .ie (fun s => setWidth_eq_zero_append s.ie) (fun _ _ => .inl rfl)
  case keyData => exact readReturns_regValue .keyData (fun _ => rfl) (fun _ _ => .inl rfl)
  case keyLen => exact readReturns_regValue .keyLen (fun _ => rfl) (fun _ => .inr)
  case counterHi => exact readReturns_regValue .counterHi (fun _ => rfl) (fun _ _ => .inl rfl)
  case counterLo => exact readReturns_regValue .counterLo (fun _ => rfl) (fun _ _ => .inl rfl)
  case trunc => exact readReturns_regValue .trunc (fun s => setWidth_eq_zero_append s.trunc) (fun _ => .inr)
  case toff => exact readReturns_regValue .toff (fun s => setWidth_eq_zero_append s.toff) (fun _ => .inr)
  case code => exact readReturns_regValue .code (fun _ => rfl) (fun _ => .inr)
  case codeDigits =>
    exact readReturns_regValue .codeDigits (fun s => setWidth_eq_zero_append s.codeDigits) (fun _ => .inr)
  case digest =>
    intro i hi
    exact readReturns_regValue (.digest ⟨i, hi⟩) (fun s => digestWord_eq s.dig ⟨i, hi⟩) (fun _ => .inr)

/-- A read that is answered reaches a register at its offset, with the reset input released (R61, R62). -/
theorem step_read_next {off : BitVec 7} {width : Nat} (he : s.events = .read off width :: rest)
    (h : step s = .next t) :
    ∃ r : Reg, s.resetLine = false ∧ off = r.offset ∧ width = 4 ∧ t = readReg r { s with events := rest } := by
  rw [step_cons he, runEvent, hostRead] at h
  split at h
  · cases h
  · next hl =>
    split at h <;> cases h
    next r hr =>
    obtain ⟨rfl, rfl⟩ := target_eq_some.1 hr
    exact ⟨r, by simpa using hl, rfl, rfl, rfl⟩

/-- R33, R40: no register reads the key bytes or KEY_DATA. -/
theorem readReg_secret (r : Reg) (s : State) (key : List Byte) (kd : Word) :
    readReg r { s with key := key, keyData := kd } = { readReg r s with key := key, keyData := kd } := by
  have hv : regValue r { s with key := key, keyData := kd } = regValue r s := by cases r <;> rfl
  simp only [readReg, hv]
  split <;> rfl

/-- Settles O48: the read reaches the same register, whose value the secrets do not enter. -/
theorem keyBytesAreNeverReadable : Obligations.KeyBytesAreNeverReadable := by
  unfold Obligations.KeyBytesAreNeverReadable
  intro s t off width rest key' kd' he h
  obtain ⟨r, hl, rfl, rfl, rfl⟩ := step_read_next he h
  rw [← readReg_secret]
  exact step_read (s := { s with key := key', keyData := kd' }) hl he (regAt_offset r)

/-! ### Writes -/

/-- Settles O46: write 1 to clear, on the two bits. -/
theorem statusWriteClearsDoneAndOvrOnly : Obligations.StatusWriteClearsDoneAndOvrOnly := by
  unfold Obligations.StatusWriteClearsDoneAndOvrOnly
  intro s v rest hl he _
  have hclear : ∀ b c : Bool, (b && !c) = if c then false else b := by decide
  rw [step_write hl he (regAt_offset .status) nofun, writeReg, writeStatus, hclear, hclear]

/-- Settles O47: IE is three bits wide. -/
theorem ieWriteStoresThreeBits : Obligations.IeWriteStoresThreeBits := by
  unfold Obligations.IeWriteStoresThreeBits
  intro s v rest hl he _
  rw [step_write hl he (regAt_offset .ie) nofun, writeReg, writeIe, BitVec.setWidth_eq_extractLsb' (by decide)]

/-- BE4 of a word, byte by byte. -/
theorem toBE_four (v : Word) :
    toBE 4 v.toNat = [v.extractLsb' 24 8, v.extractLsb' 16 8, v.extractLsb' 8 8, v.extractLsb' 0 8] :=
  keyBytes_eq v 4

/-- R38: the bytes of DIG after a DIGEST write. -/
theorem read_writeDigest (hw : s.dig.wf = true) (i : Fin 16) (v : Word) (j : Nat) :
    (writeDigest i v s).dig.read j =
      if 4 * i.val ≤ j ∧ j < 4 * i.val + 4 then
        [v.extractLsb' 24 8, v.extractLsb' 16 8, v.extractLsb' 8 8, v.extractLsb' 0 8].getD (j - 4 * i.val) 0
      else s.dig.read j := by
  rw [writeDigest_dig, toBE_four]
  exact Memory.read_writeBytes _ hw (by have := i.isLt; simp [digLen]; omega)

/-- R65: a DIGEST write while BUSY = 0 is performed. -/
theorem step_writeDigest {i : Fin 16} {v : Word} (hl : s.resetLine = false)
    (he : s.events = .write (Reg.digest i).offset 4 v :: rest) (hb : s.busy = false) :
    step s = .next (writeDigest i v { s with events := rest }) := by
  rw [step_write hl he (regAt_offset (.digest i)) nofun, writeReg, writeOperand, hb]
  rfl

/-- Settles O45: the write stores the four bytes of v at 4i. -/
theorem digestWriteSetsItsFourBytes : Obligations.DigestWriteSetsItsFourBytes := by
  unfold Obligations.DigestWriteSetsItsFourBytes
  intro s i v rest hi hl he hb hw
  have hread := read_writeDigest (s := { s with events := rest }) hw ⟨i, hi⟩ v
  refine ⟨_, step_writeDigest (i := ⟨i, hi⟩) hl he hb, ?_, ?_, ?_, ?_, fun j hj => ?_⟩
  · exact (hread _).trans (by simp)
  · exact (hread _).trans (by simp)
  · exact (hread _).trans (by simp)
  · exact (hread _).trans (by simp)
  · exact (hread j).trans (if_neg fun hin => by simp only at hin; omega)

end Sys2Proof.Machine
end

section
/-! PROOFS. The bus of the register window: which addresses are its own (R60), which transactions it faults (R62), what
a read leaves unchanged (R66, R68) and what a write to a read-only or an operand register does (R63, R65). -/

namespace Sys2Proof.Machine

variable {s t : State} {rest : List Event}

/-! ### Addresses (R60) -/

theorem inWindow_base_add {off : Nat} (h : off < 0x80) : inWindow (Config.base + off) = true :=
  inWindow_eq_true.2 (by omega)

theorem inWindow_eq_false {addr : Nat} (h : addr < Config.base ∨ Config.base + 0x80 ≤ addr) :
    inWindow addr = false :=
  Bool.eq_false_iff.2 fun hin => by have := inWindow_eq_true.1 hin; omega

/-- Settles O35: BASE is a multiple of the window's size, and an access is the block's exactly inside the window. -/
theorem windowAddressesMapToOffsets : Obligations.WindowAddressesMapToOffsets := by
  unfold Obligations.WindowAddressesMapToOffsets
  refine ⟨Nat.mul_mod_right Config.windowSize Config.basePage, fun off width v h => ?_, fun addr width v h => ?_⟩
  · simp [memRead, memWrite, inWindow_base_add h]
  · simp [memRead, memWrite, inWindow_eq_false h]

/-! ### Bus errors (R62) -/

theorem hostRead_eq_fault {off : BitVec 7} {width : Nat} {r : Fault} (hl : s.resetLine = false) :
    hostRead off width s = .fault r ↔ target off width = none ∧ r = .busError := by
  cases h : target off width <;> simp [hostRead, hl, h, eq_comm]

theorem hostWrite_eq_fault {off : BitVec 7} {width : Nat} {v : Word} {r : Fault} (hl : s.resetLine = false) :
    hostWrite off width v s = .fault r ↔ target off width = none ∧ r = .busError := by
  cases h : target off width with
  | none => simp [hostWrite, hl, h, eq_comm]
  | some reg =>
    obtain ⟨t, ht⟩ := present_next v s
    by_cases hc : reg = .cmd <;> simp [hostWrite, hl, h, hc, ht]

theorem engineStep_ne_fault (s : State) (r : Fault) : engineStep s ≠ .fault r := by
  obtain ⟨t, ht⟩ := engineStep_next s
  simp [ht]

/-- The next event is a host transaction that reaches no register. -/
def BadTransaction (s : State) : Prop :=
  ∃ (off : BitVec 7) (width : Nat) (rest : List Event),
    (s.events = .read off width :: rest ∨ ∃ v, s.events = .write off width v :: rest) ∧ target off width = none

/-- Outside reset a step faults exactly on a transaction that reaches no register, with the bus error. -/
theorem step_eq_fault {r : Fault} (hl : s.resetLine = false) :
    step s = .fault r ↔ BadTransaction s ∧ r = .busError := by
  unfold BadTransaction
  cases he : s.events with
  | nil => simp [step_nil he, engineStep_ne_fault]
  | cons e rest =>
    rw [step_cons he]
    cases e with
    | read off width => simp [runEvent, hostRead_eq_fault, hl]
    | write off width v => simp [runEvent, hostWrite_eq_fault, hl]
    | engine => simp [runEvent, engineStep_ne_fault]
    | resetAssert => simp [runEvent]
    | resetRelease => simp [runEvent]

/-- Settles O39: the transactions that reach no register are those R62 lists. -/
theorem busErrorsAreExactlyTheBadTransactions : Obligations.BusErrorsAreExactlyTheBadTransactions := by
  unfold Obligations.BusErrorsAreExactlyTheBadTransactions
  intro s hl
  simp only [← target_eq_none]
  refine ⟨⟨?_, fun hbad => ⟨.busError, (step_eq_fault hl).2 ⟨hbad, rfl⟩⟩⟩, fun r h => ((step_eq_fault hl).1 h).2⟩
  rintro ⟨r, h⟩
  exact ((step_eq_fault hl).1 h).1

/-! ### Registers by offset (R22) -/

/-- A property of the registers at some named offsets and of every DIGESTi holds of the register at any offset that is
named or, from 0x40 on, aligned. -/
theorem exists_reg_of_offset {p : Reg → Bool} {named : List (BitVec 7)} {off : BitVec 7}
    (hnamed : ∀ off ∈ named, ∃ r, regAt off = some r ∧ p r = true) (hdigest : ∀ i, p (.digest i) = true)
    (h : off ∈ named ∨ (0x40 ≤ off.toNat ∧ off.toNat % 4 = 0)) : ∃ r, regAt off = some r ∧ p r = true := by
  obtain h | ⟨hlow, halign⟩ := h
  · exact hnamed off h
  · obtain ⟨i, hi⟩ := exists_digest_of_offset hlow halign
    exact ⟨.digest i, hi, hdigest i⟩

/-! ### Reads (R66, R68) -/

/-- A read records its data and draws at most one free value, that only while BUSY = 1. -/
theorem readReg_draws (r : Reg) (s : State) :
    ∃ v d, readReg r s = { s with rdata := some v, draws := d } ∧
      (d = s.draws ∨ (d = s.draws + 1 ∧ s.busy = true)) := by
  unfold readReg
  split
  · next h => exact ⟨_, _, rfl, .inr ⟨rfl, h.1⟩⟩
  · exact ⟨_, _, rfl, .inl rfl⟩

/-- Settles O38: an answered read reaches a register, and reading a register changes none. -/
theorem readsChangeNoRegister : Obligations.ReadsChangeNoRegister := by
  unfold Obligations.ReadsChangeNoRegister
  intro s t off width rest he h
  obtain ⟨r, -, -, -, rfl⟩ := step_read_next he h
  obtain ⟨v, d, hread, hd⟩ := readReg_draws r { s with events := rest }
  rw [hread]
  exact ⟨v, rfl, hd⟩

/-- Settles O37: the value is the next free one. -/
theorem busyReadsOfResultsReturnSomeValue : Obligations.BusyReadsOfResultsReturnSomeValue := by
  unfold Obligations.BusyReadsOfResultsReturnSomeValue
  intro s off rest hl he hb hoff
  obtain ⟨r, hr, hresult⟩ := exists_reg_of_offset (p := isResult) (by decide) (fun _ => rfl) hoff
  refine ⟨Config.busyRead s.draws, ?_⟩
  rw [step_read hl he hr, readReg, if_pos ⟨hb, hresult⟩]

/-! ### Writes to read-only and operand registers (R63, R65) -/

/-- The registers that ignore a write (R63). -/
def isReadOnly : Reg → Bool
  | .id | .keyLen | .toff | .code | .codeDigits => true
  | _ => false

/-- The registers whose write is dropped while BUSY = 1 (R65). -/
def isOperand : Reg → Bool
  | .keyData | .counterHi | .counterLo | .trunc | .digest _ => true
  | _ => false

theorem writeReg_readOnly {r : Reg} (h : isReadOnly r = true) (v : Word) (s : State) : writeReg r v s = s := by
  cases r with
  | id | keyLen | toff | code | codeDigits => rfl
  | _ => cases h

theorem writeReg_operand_busy {r : Reg} (h : isOperand r = true) (v : Word) (hb : s.busy = true) :
    writeReg r v s = drop s := by
  cases r with
  | keyData | counterHi | counterLo | trunc | digest _ => exact if_pos hb
  | _ => cases h

/-- What `writeReg` makes of the state is what a host write makes of it. -/
theorem writeMakes_of_writeReg {r : Reg} {off : BitVec 7} {ok : State → Prop} {f : Word → State → State}
    (hr : regAt off = some r) (hc : r ≠ .cmd)
    (hf : ∀ s v rest, ok s → writeReg r v { s with events := rest } = f v { s with events := rest }) :
    WriteMakes off ok f := by
  intro s v rest hl he hs
  rw [step_write hl he hr hc, hf s v rest hs]

/-- Settles O42: the five offsets are those of read-only registers. -/
theorem readOnlyWritesAreIgnored : Obligations.ReadOnlyWritesAreIgnored := by
  unfold Obligations.ReadOnlyWritesAreIgnored
  intro off hoff
  have hreadOnly : ∀ off ∈ [0x00#7, 0x14#7, 0x24#7, 0x28#7, 0x2C#7],
      ∃ r, regAt off = some r ∧ isReadOnly r = true := by decide
  obtain ⟨r, hr, hro⟩ := hreadOnly off hoff
  exact writeMakes_of_writeReg hr (by rintro rfl; cases hro) fun s v rest _ => writeReg_readOnly hro v _

/-- Settles O43: the offsets are those of operand registers, and a dropped write sets OVR alone. -/
theorem operandWritesWhileBusyAreDropped : Obligations.OperandWritesWhileBusyAreDropped := by
  unfold Obligations.OperandWritesWhileBusyAreDropped
  intro off hoff
  obtain ⟨r, hr, hop⟩ := exists_reg_of_offset (p := isOperand) (by decide) (fun _ => rfl) hoff
  exact writeMakes_of_writeReg hr (by rintro rfl; cases hop) fun s v rest hb => writeReg_operand_busy hop v hb

/-- R65: while BUSY = 0 a write to an operand register is performed. -/
theorem writeMakes_operand (r : Reg) {perform : Word → State → State} (hc : r ≠ .cmd)
    (hp : ∀ v s, writeReg r v s = writeOperand (perform v) s) :
    WriteMakes r.offset (fun s => s.busy = false) perform :=
  writeMakes_of_writeReg (regAt_offset r) hc fun s v rest hb => by simp [hp, writeOperand, hb]

/-- Settles O44: each of the four stores its value; TRUNC is 31 bits wide. -/
theorem operandWritesWhileIdleStore : Obligations.OperandWritesWhileIdleStore := by
  unfold Obligations.OperandWritesWhileIdleStore
  refine ⟨?keyData, ?counterHi, ?counterLo, ?trunc⟩
  case keyData => exact writeMakes_operand .keyData nofun fun _ _ => rfl
  case counterHi => exact writeMakes_operand .counterHi nofun fun _ _ => rfl
  case counterLo => exact writeMakes_operand .counterLo nofun fun _ _ => rfl
  case trunc =>
    refine writeMakes_operand .trunc nofun fun v s => ?_
    rw [writeReg, BitVec.setWidth_eq_extractLsb' (by decide)]

end Sys2Proof.Machine
end

section
/-! PROOFS. The decoder and the encoder (R80 to R91): a word decodes to a command exactly if it meets the row's mask and
its used fields hold the operands; the encoder writes that word, and the words that do not decode fail at the first of
R90's checks. -/

namespace Sys2Proof

variable {w : Word} {i : Instr} {op : Op} {e : ErrCode}

/-! ### The operands in the fields of a word -/

/-- The used fields of a word hold the operands of a command (R81, R83 to R85). -/
def OperandsIn (w : Word) : Instr → Prop
  | .keyBegin a | .trunc a => a.code = algField w
  | .keyAppend nb => (nbm1Field w).toNat + 1 = nb
  | .reduce n | .derive n => digField w ≠ 0 ∧ (digField w).toNat = n
  | .nop | .sreset | .clrErr | .keyEnd | .keyZero | .hmac => True

/-- The last checks of R90 answer a command of their row exactly if the fields hold its operands. -/
theorem decodeFields_eq_ok : decodeFields i.op w = .ok i ↔ OperandsIn w i := by
  cases i with
  | keyBegin a | trunc a =>
    simp only [decodeFields, Instr.op, OperandsIn, ← algOf_eq_some]
    cases algOf (algField w) <;> simp
  | keyAppend nb => simp [decodeFields, Instr.op, OperandsIn]
  | reduce n | derive n =>
    by_cases hd : digField w = 0#8 <;> simp [decodeFields, Instr.op, OperandsIn, hd]
  | _ => exact iff_of_true rfl trivial

/-- The decoder of R90 as one condition on the word. -/
theorem decode_eq_ok : decode w = .ok i ↔ w &&& i.op.mask = i.op.bits ∧ OperandsIn w i := by
  rw [← decodeFields_eq_ok]
  refine ⟨fun h => ?_, fun ⟨hm, hf⟩ => (decode_of_row (opc_of_masked hm) hm).trans hf⟩
  obtain ⟨-, hm, hf, -⟩ := decode_ok h
  exact ⟨hm, hf⟩

/-! ### Decoding and encoding are inverse -/

/-- R87: the word of every well-formed command meets its row's mask. -/
theorem encode_masked (h : i.wf = true) : encode i &&& i.op.mask = i.op.bits := by
  cases i with
  | keyBegin a => exact (Laws.RowMatch.keyBegin a h).2
  | keyAppend nb => exact (Laws.RowMatch.keyAppend nb h).2
  | trunc a => exact (Laws.RowMatch.trunc a h).2
  | reduce n => exact (Laws.RowMatch.reduce n h).2
  | derive n => exact (Laws.RowMatch.derive n h).2
  | _ => decide

theorem wf_reduce {n : Nat} : (Instr.reduce n).wf = true ↔ 1 ≤ n ∧ n ≤ 255 := by simp [Instr.wf, wfDigits]

theorem wf_derive {n : Nat} : (Instr.derive n).wf = true ↔ 1 ≤ n ∧ n ≤ 255 := wf_reduce

theorem wf_keyAppend {nb : Nat} : (Instr.keyAppend nb).wf = true ↔ 1 ≤ nb ∧ nb ≤ 4 := by simp [Instr.wf, wfByteCount]

/-- A digit count in range is read back from the DIG field it was written to (R85, R91). -/
theorem digits_read_back {n : Nat} {low : Word} (h1 : 1 ≤ n) (hn : n ≤ 255) (hl : low.toNat < 2 ^ 16) :
    digField (low ||| (BitVec.ofNat 32 n <<< 16)) ≠ 0 ∧
      (digField (low ||| (BitVec.ofNat 32 n <<< 16))).toNat = n := by
  obtain ⟨-, -, hf⟩ := Laws.digits_in_field hn hl
  have hnat : (BitVec.ofNat 8 n).toNat = n := by rw [BitVec.toNat_ofNat]; omega
  rw [hf]
  exact ⟨fun h0 => by rw [h0] at hnat; simp at hnat; omega, hnat⟩

/-- R91: the encoder writes every operand into its field. -/
theorem operandsIn_encode (h : i.wf = true) : OperandsIn (encode i) i := by
  cases i with
  | keyBegin a | trunc a => cases a <;> rfl
  | keyAppend nb =>
    obtain ⟨h1, h4⟩ := wf_keyAppend.1 h
    obtain ⟨-, hf, -⟩ := masked_and_field_of_or (mask := 0xFFFFF3FF) (low := 0x00000011#32) (p := 10) (k := 2)
      (by decide) (by decide) (by decide) (BitVec.ofNat 2 (nb - 1))
    have hw : BitVec.ofNat 32 (nb - 1) = (BitVec.ofNat 2 (nb - 1)).setWidth 32 :=
      BitVec.eq_of_toNat_eq (by simp; omega)
    rw [OperandsIn, encode, nbm1Field, hw, hf, BitVec.toNat_ofNat]
    omega
  | reduce n => exact digits_read_back (wf_reduce.1 h).1 (wf_reduce.1 h).2 (by decide)
  | derive n => exact digits_read_back (wf_derive.1 h).1 (wf_derive.1 h).2 (by decide)
  | _ => trivial

/-- Settles O2: the word meets the row's mask and its fields hold the operands. -/
theorem decodeOfEncodeIsTheCommand : Obligations.DecodeOfEncodeIsTheCommand := by
  unfold Obligations.DecodeOfEncodeIsTheCommand
  exact fun i h => decode_eq_ok.2 ⟨encode_masked h, operandsIn_encode h⟩

/-- R86: a word that meets the mask of a row with one used field is the row's match with that field. -/
theorem bits_or_field {mask bits : Word} {p k : Nat} (hc : clearsField mask p k = true) (hm : w &&& mask = bits) :
    bits ||| ((w.extractLsb' p k).setWidth 32 <<< p) = w := by
  rw [← hm]
  exact (word_eq_masked_or_field hc w).symm

/-- R86: a word that meets the mask of a row without fields is the row's match. -/
theorem bits_of_full_mask {bits : Word} (hm : w &&& BitVec.allOnes 32 = bits) : bits = w := by
  rw [← hm, BitVec.and_allOnes]

/-- R86, R91: the mask and the operands fix every bit of the word. -/
theorem encode_of_operandsIn (hm : w &&& i.op.mask = i.op.bits) (ho : OperandsIn w i) : encode i = w := by
  cases i with
  | keyBegin a | trunc a =>
    rw [encode, show a.code = algField w from ho]
    exact bits_or_field (mask := 0xFFFFFCFF) (by decide) hm
  | keyAppend nb =>
    obtain rfl : (nbm1Field w).toNat + 1 = nb := ho
    rw [encode, Nat.add_sub_cancel, BitVec.ofNat_toNat]
    exact bits_or_field (mask := 0xFFFFF3FF) (by decide) hm
  | reduce n | derive n =>
    obtain ⟨-, rfl⟩ : digField w ≠ 0 ∧ (digField w).toNat = n := ho
    rw [encode, BitVec.ofNat_toNat]
    exact bits_or_field (mask := 0xFF00FFFF) (by decide) hm
  | _ => exact bits_of_full_mask hm

/-- Settles O3: the mask fixes the bits outside the used fields, and those hold the operands. -/
theorem encodeOfDecodeIsTheWord : Obligations.EncodeOfDecodeIsTheWord := by
  unfold Obligations.EncodeOfDecodeIsTheWord
  intro w i h
  obtain ⟨hm, ho⟩ := decode_eq_ok.1 h
  exact ⟨decode_wf h, encode_of_operandsIn hm ho⟩

/-! ### The words that do not decode -/

/-- The last checks of R90 fail on ALG = 0b11 and on DIG = 0, in the rows that use the field. -/
theorem decodeFields_eq_error : decodeFields op w = .error e ↔
    (e = .eAlg ∧ (op = .keyBegin ∨ op = .trunc) ∧ algField w = 0b11#2) ∨
      (e = .eDigits ∧ (op = .reduce ∨ op = .derive) ∧ digField w = 0#8) := by
  cases op with
  | keyBegin | trunc =>
    have hreserved : algField w = 0b11#2 ↔ algOf (algField w) = none := algOf_eq_none.symm
    rw [hreserved]
    cases ha : algOf (algField w) <;> simp [decodeFields, ha, eq_comm (b := e)]
  | reduce | derive => by_cases hd : digField w = 0#8 <;> simp [decodeFields, hd, eq_comm (b := e)]
  | _ => simp [decodeFields]

/-- Which check of R90 a word fails with which error: the opcode, else the row's mask, else a field. -/
theorem decode_eq_error : decode w = .error e ↔
    (e = .eOpc ∧ ∀ op : Op, op.opc ≠ opcField w) ∨
      (e = .eRsvd ∧ ∃ op : Op, op.opc = opcField w ∧ w &&& op.mask ≠ op.bits) ∨
      ∃ op : Op, w &&& op.mask = op.bits ∧ decodeFields op w = .error e := by
  constructor
  · intro h
    unfold decode at h
    split at h
    · next ho =>
      cases h
      exact .inl ⟨rfl, opOf_eq_none.1 ho⟩
    · next op ho =>
      split at h
      · next hm =>
        cases h
        exact .inr (.inl ⟨rfl, op, opOf_eq_some.1 ho, hm⟩)
      · next hm => exact .inr (.inr ⟨op, not_not.1 hm, h⟩)
  · rintro (⟨rfl, ho⟩ | ⟨rfl, op, ho, hm⟩ | ⟨op, hm, hf⟩)
    · simp [decode, opOf_eq_none.2 ho]
    · simp [decode, opOf_eq_some.2 ho, hm]
    · exact (decode_of_row (opc_of_masked hm) hm).trans hf

/-- Settles O4: each error belongs to one check of R90. -/
theorem decodeErrorsFollowThePriority : Obligations.DecodeErrorsFollowThePriority := by
  unfold Obligations.DecodeErrorsFollowThePriority
  intro w
  refine ⟨?opc, ?rsvd, ?alg, ?digits, fun e => Machine.decode_error_cases⟩
  case opc => simp [decode_eq_error, decodeFields_eq_error, opcField]
  case rsvd => simp [decode_eq_error, decodeFields_eq_error, opcField]
  case alg => simp [decode_eq_error, decodeFields_eq_error, algField, and_left_comm]
  case digits => simp [decode_eq_error, decodeFields_eq_error, digField, and_left_comm]

/-! ### The list of R88 -/

/-- R91: the word of a command with a digit count, spelled out in bits. -/
theorem digits_word {n : Nat} (hn : n ≤ 255) (low : BitVec 16) :
    low.setWidth 32 ||| (BitVec.ofNat 32 n <<< 16) = 0x00#8 ++ BitVec.ofNat 8 n ++ low := by
  apply BitVec.eq_of_toNat_eq
  have hlow := low.isLt
  rw [Machine.toNat_append_add, Machine.toNat_append_add, BitVec.toNat_or, BitVec.toNat_shiftLeft,
    BitVec.toNat_setWidth, BitVec.toNat_ofNat, BitVec.toNat_ofNat, BitVec.toNat_ofNat, Nat.or_comm,
    Nat.mod_eq_of_lt (a := low.toNat) (by omega), Nat.mod_eq_of_lt (a := n) (by omega),
    Nat.mod_eq_of_lt (by rw [Nat.shiftLeft_eq]; omega), ← Nat.shiftLeft_add_eq_or_of_lt hlow, Nat.shiftLeft_eq]
  omega

/-- Settles O5: the listed words decode, and the word of each command with operands in range is listed. -/
theorem executingWordsAreTheList : Obligations.ExecutingWordsAreTheList := by
  unfold Obligations.ExecutingWordsAreTheList
  refine ⟨fun w i => ⟨fun h => ?_, ?_⟩, by decide, by decide, by decide, by decide⟩
  · obtain ⟨hw, rfl⟩ := encodeOfDecodeIsTheWord w i h
    cases i with
    | keyBegin a | trunc a => exact .inl (by cases a <;> decide)
    | keyAppend nb =>
      obtain ⟨h1, h4⟩ := wf_keyAppend.1 hw
      obtain rfl | rfl | rfl | rfl : nb = 1 ∨ nb = 2 ∨ nb = 3 ∨ nb = 4 := by omega
      all_goals exact .inl (by decide)
    | reduce n =>
      obtain ⟨h1, hn⟩ := wf_reduce.1 hw
      exact .inr ⟨n, h1, hn, .inl ⟨digits_word hn 0x0022, rfl⟩⟩
    | derive n =>
      obtain ⟨h1, hn⟩ := wf_derive.1 hw
      exact .inr ⟨n, h1, hn, .inr ⟨digits_word hn 0x0023, rfl⟩⟩
    | _ => exact .inl (by decide)
  · rintro (hlisted | ⟨n, h1, hn, ⟨rfl, rfl⟩ | ⟨rfl, rfl⟩⟩)
    · refine (?_ : ∀ x ∈ _, decode x.1 = .ok x.2) (w, i) hlisted
      decide
    · rw [← digits_word hn]
      exact decodeOfEncodeIsTheCommand (.reduce n) (wf_reduce.2 ⟨h1, hn⟩)
    · rw [← digits_word hn]
      exact decodeOfEncodeIsTheCommand (.derive n) (wf_derive.2 ⟨h1, hn⟩)

/-- Settles O1: each sample word is the encoding of its command. -/
theorem wordsDecodeToTheirCommands : Obligations.WordsDecodeToTheirCommands := by
  unfold Obligations.WordsDecodeToTheirCommands
  have h := decodeOfEncodeIsTheCommand
  exact ⟨h .nop rfl, h .sreset rfl, h .clrErr rfl, h (.keyBegin .sha1) rfl, h (.keyBegin .sha512) rfl,
    h (.keyAppend 1) rfl, h (.keyAppend 4) rfl, h .keyEnd rfl, h .keyZero rfl, h .hmac rfl, h (.trunc .sha256) rfl,
    h (.reduce 255) rfl, h (.derive 6) rfl⟩

end Sys2Proof
end

section
/-! PROOFS. LOADKEY (R92): each of its parts is run through, and what they do together is to leave exactly the given
bytes as the key. -/

namespace Sys2Proof.Machine

variable {s t u : State} {a : Alg} {k : List Byte} {kd : Word} {d : Option Word} {rest : List Event}

/-! ### Running through a part of the events -/

/-- A run from `s` that takes the events `es`, with `rest` to come after them, is at `t` when it has taken them. -/
def RunsThrough (es rest : List Event) (s t : State) : Prop :=
  ∀ j, Host.Core.run core (j + es.length) { s with events := es ++ rest } =
    Host.Core.run core j { t with events := rest }

theorem RunsThrough.nil (s : State) : RunsThrough [] rest s s := fun _ => rfl

theorem RunsThrough.append {es es' : List Event} (h : RunsThrough es (es' ++ rest) s t)
    (h' : RunsThrough es' rest t u) : RunsThrough (es ++ es') rest s u := by
  intro j
  rw [List.append_assoc, List.length_append, Nat.add_comm es.length, ← Nat.add_assoc]
  exact (h _).trans (h' j)

/-- A command that is accepted, with its WAIT. -/
theorem runsThrough_issueAndWait (n : Nat) {i : Instr} (hw : i.wf = true) (hs : i ≠ .sreset)
    (hl : s.resetLine = false) (he : s.err = false) (hb : s.busy = false) (hc : stateCheck i s = none) :
    ∃ d, RunsThrough (issueAndWait n i) rest s
      { finish (effectState i ⟨i, s.keyData, counter s⟩ s) with rdata := d } := by
  obtain ⟨d, h⟩ := run_issueAndWait (s := { s with events := issueAndWait n i ++ rest }) n hl rfl
    (decodeOfEncodeIsTheCommand i hw) hs hb (fun h => absurd (he.symm.trans h) nofun)
    ((stateCheck_congr i rfl rfl).trans hc)
  refine ⟨d, fun j => (h j).trans ?_⟩
  cases i <;> rfl

/-- A write of KEY_DATA while BUSY = 0. -/
theorem runsThrough_keyData {v : Word} (hl : s.resetLine = false) (hb : s.busy = false) :
    RunsThrough [wr .keyData v] rest s { s with keyData := v } :=
  run_keyData (s := { s with events := wr .keyData v :: rest }) hl hb rfl

/-! ### The parts of LOADKEY -/

/-- The state in the course of LOADKEY from `s`: KEY_BEGIN and the KEY_APPENDs of the bytes `k` have completed, KEY_DATA
is `kd` and the last read returned `d`. -/
def whileLoading (s : State) (a : Alg) (k : List Byte) (kd : Word) (d : Option Word) : State :=
  { s with
    busy := false, done := true, kstate := .loading, kalg := a, keyData := kd, keyLen := BitVec.ofNat 32 k.length
    key := k, pending := none, rdata := d }

/-- R120: KEY_BEGIN starts an empty key. -/
theorem runsThrough_keyBegin (n : Nat) (hl : s.resetLine = false) (he : s.err = false) (hb : s.busy = false) :
    ∃ d, RunsThrough (issueAndWait n (.keyBegin a)) rest s (whileLoading s a [] s.keyData d) :=
  runsThrough_issueAndWait n rfl nofun hl he hb rfl

/-- R121: a group appends its bytes, packed into KEY_DATA. -/
theorem runsThrough_loadGroup (n : Nat) {g : List Byte} (hl : s.resetLine = false) (he : s.err = false)
    (hg : 1 ≤ g.length ∧ g.length ≤ 4) (hlen : k.length + g.length ≤ maxKeyLen) :
    ∃ kd' d', RunsThrough (loadGroup n g) rest (whileLoading s a k kd d) (whileLoading s a (k ++ g) kd' d') := by
  have hmax : maxKeyLen = 4294967295 := rfl
  let packed : Word := BitVec.ofNat 32 (be (g ++ zeros (4 - g.length)))
  have hcheck : stateCheck (.keyAppend g.length) (whileLoading s a k packed d) = none := by
    refine stateCheck_keyAppend_eq_none.2 ⟨rfl, ?_⟩
    rw [whileLoading, BitVec.toNat_ofNat]
    omega
  obtain ⟨d', happend⟩ := runsThrough_issueAndWait (rest := rest) n (wf_keyAppend.2 hg) nofun
    (s := whileLoading s a k packed d) hl he rfl hcheck
  have hwrite : RunsThrough [wr .keyData packed] (issueAndWait n (.keyAppend g.length) ++ rest)
      (whileLoading s a k kd d) (whileLoading s a k packed d) := runsThrough_keyData hl rfl
  have hstate : whileLoading s a (k ++ g) packed d' =
      { finish (appendKey g.length ⟨.keyAppend g.length, packed, counter s⟩ (whileLoading s a k packed d)) with
        rdata := d' } := by
    simp [whileLoading, appendKey, finish, packed, keyBytes_packed hg.2, BitVec.ofNat_add]
  refine ⟨packed, d', ?_⟩
  rw [hstate]
  exact hwrite.append happend

/-- R92: the groups append all their bytes. -/
theorem runsThrough_loadGroups (polls : Nat → Nat) (i : Nat) (b : List Byte) (hl : s.resetLine = false)
    (he : s.err = false) (hlen : k.length + b.length ≤ maxKeyLen) :
    ∃ kd' d', RunsThrough (loadGroups polls i b) rest (whileLoading s a k kd d) (whileLoading s a (k ++ b) kd' d') := by
  fun_induction loadGroups polls i b generalizing k kd d with
  | case1 i b0 b1 b2 b3 tail ih =>
    simp only [List.length_cons] at hlen
    obtain ⟨kd₁, d₁, hgroup⟩ := runsThrough_loadGroup (a := a) (k := k) (kd := kd) (d := d)
      (rest := loadGroups polls (i + 1) tail ++ rest) (polls i) (g := [b0, b1, b2, b3]) hl he (by simp)
      (by simp only [List.length_cons, List.length_nil]; omega)
    obtain ⟨kd₂, d₂, htail⟩ := ih (k := k ++ [b0, b1, b2, b3]) (kd := kd₁) (d := d₁)
      (by simp only [List.length_append, List.length_cons, List.length_nil]; omega)
    rw [List.append_assoc] at htail
    exact ⟨kd₂, d₂, hgroup.append htail⟩
  | case2 => exact ⟨kd, d, by simpa using RunsThrough.nil _⟩
  | case3 i b hlong hnil =>
    have hshort : 1 ≤ b.length ∧ b.length ≤ 4 := by
      match b, hlong, hnil with
      | [], _, hnil => exact absurd rfl hnil
      | [_], _, _ | [_, _], _, _ | [_, _, _], _, _ => simp
      | _ :: _ :: _ :: _ :: _, hlong, _ => exact (hlong _ _ _ _ _ rfl).elim
    exact runsThrough_loadGroup (polls i) hl he hshort hlen

/-- R122: KEY_END makes the key complete. -/
theorem runsThrough_keyEnd (n : Nat) (hl : s.resetLine = false) (he : s.err = false) :
    ∃ d', RunsThrough (issueAndWait n .keyEnd) rest (whileLoading s a k kd d)
      { whileLoading s a k kd d' with kstate := .ready } :=
  runsThrough_issueAndWait (s := whileLoading s a k kd d) n rfl nofun hl he rfl rfl

/-- R92: LOADKEY from an idle core without an error. -/
theorem runsThrough_loadKey (polls : Nat → Nat) (b : List Byte) (hl : s.resetLine = false) (he : s.err = false)
    (hb : s.busy = false) (hlen : b.length ≤ maxKeyLen) :
    ∃ kd d, RunsThrough (loadKey polls a b) rest s { whileLoading s a b kd d with kstate := .ready } := by
  obtain ⟨_, hbegin⟩ := runsThrough_keyBegin (a := a) (polls 0) hl he hb
  obtain ⟨kd, _, hgroups⟩ := runsThrough_loadGroups (k := []) polls 1 b hl he ((Nat.zero_add _).trans_le hlen)
  obtain ⟨d, hend⟩ := runsThrough_keyEnd (polls (1 + groupCount b.length)) hl he
  exact ⟨kd, d, hbegin.append (hgroups.append hend)⟩

/-- Settles O60: LOADKEY run through with nothing to come after it. -/
theorem loadKeyLoadsExactlyTheBytes : Obligations.LoadKeyLoadsExactlyTheBytes := by
  unfold Obligations.LoadKeyLoadsExactlyTheBytes
  intro s polls a b hb he hl hlen
  obtain ⟨kd, d, h⟩ := runsThrough_loadKey (a := a) (rest := []) polls b hl he hb hlen
  have hrun := h 0
  rw [Nat.zero_add, List.append_nil] at hrun
  have hkeyLen : (BitVec.ofNat 32 b.length).toNat = b.length := by
    rw [BitVec.toNat_ofNat]
    omega
  exact ⟨_, hrun, rfl, hkeyLen, rfl, rfl, rfl, rfl, he, rfl, rfl, rfl, rfl, rfl, rfl, rfl, rfl, rfl⟩

end Sys2Proof.Machine
end

section
/-! PROOFS. The control commands (spec/40_control.md): the completion steps of NOP and CLR_ERR. -/

namespace Sys2Proof.Machine

/-- R306: while BUSY = 1 the command that is pending completes; `exec_pending` with the command named. -/
theorem exec_completes {i : Instr} {s : State} {p : Pending} (hs : i ≠ .sreset) (hb : s.busy = true)
    (hp : s.pending = some p) (hc : p.cmd = i) : exec i s = .next (finish (effectState i p s)) := by
  subst hc
  exact exec_pending hb hp hs

/-- Settles O18: the effect of NOP is the state itself, and that of CLR_ERR clears the error. -/
theorem controlCommandsComplete : Obligations.ControlCommandsComplete := by
  unfold Obligations.ControlCommandsComplete
  intro s p hb hp
  constructor
  case left => exact exec_completes (i := .nop) nofun hb hp
  case right => exact exec_completes (i := .clrErr) nofun hb hp

end Sys2Proof.Machine
end

section
/-! PROOFS. The key loading commands (spec/41_key.md): their completion steps, and the KEY_APPEND that would make the
key too long. -/

namespace Sys2Proof.Machine

/-- Settles O20: the bytes appended are those of R33, most significant first. -/
theorem keyAppendCompletes : Obligations.KeyAppendCompletes := by
  unfold Obligations.KeyAppendCompletes
  intro nb s p hb hp hc
  rw [← keyBytes_eq]
  exact exec_completes (i := .keyAppend nb) nofun hb hp hc

/-- R311: the state check of a KEY_APPEND in sequence that would make the key longer than KEY_LEN can hold. -/
theorem stateCheck_keyAppend_eq_keyLen {nb : Nat} {s : State} (hk : s.kstate = .loading)
    (hlong : maxKeyLen < s.keyLen.toNat + nb) : stateCheck (.keyAppend nb) s = some .eKeyLen := by
  rw [stateCheck, needLoading, if_pos hk]
  exact if_pos hlong

/-- Settles O17: the state check answers E_KEYLEN, and recording E_KEYLEN discards the key (R302). -/
theorem overlongKeyIsDiscarded : Obligations.OverlongKeyIsDiscarded := by
  unfold Obligations.OverlongKeyIsDiscarded
  intro nb s hb he hk hlong
  exact exec_rejected (i := .keyAppend nb) nofun hb (by simp [he]) (stateCheck_keyAppend_eq_keyLen hk hlong)

/-- Settles O19: the effect of KEY_BEGIN is a new empty key bound to the algorithm. -/
theorem keyBeginCompletes : Obligations.KeyBeginCompletes := by
  unfold Obligations.KeyBeginCompletes
  intro a s p hb hp hc
  exact exec_completes (i := .keyBegin a) nofun hb hp hc

/-- Settles O21: the effect of KEY_END is KSTATE READY, and that of KEY_ZERO discards the key. -/
theorem keyEndAndKeyZeroComplete : Obligations.KeyEndAndKeyZeroComplete := by
  unfold Obligations.KeyEndAndKeyZeroComplete
  intro s p hb hp
  constructor
  case left => exact exec_completes (i := .keyEnd) nofun hb hp
  case right => exact exec_completes (i := .keyZero) nofun hb hp

end Sys2Proof.Machine
end

section
/-! PROOFS. HMAC and the hashes below it (spec/42_hmac.md): the lengths of digests, the padding, the key HMAC uses in a
long key's and a short key's place, and the completion step of the HMAC command. -/

namespace Sys2Proof.Machine

variable {a : Alg} {k k' m : List Byte}

/-! ### Lengths and padding (R140, R143, R144) -/

/-- Settles O28: every digest is the words of a hash value, and the outer hash is a digest. -/
theorem digestsHaveTheAlgorithmsLength : Obligations.DigestsHaveTheAlgorithmsLength := by
  unfold Obligations.DigestsHaveTheAlgorithmsLength
  exact ⟨⟨rfl, rfl, rfl⟩, fun a k m => ⟨length_hash a m, length_hmac a k m⟩⟩

/-- Settles O29: `padZeros` is the k of R143 and R144. -/
theorem paddingFillsWholeBlocksWithFewestZeros : Obligations.PaddingFillsWholeBlocksWithFewestZeros := by
  unfold Obligations.PaddingFillsWholeBlocksWithFewestZeros
  intro a m
  refine ⟨padZeros a m.length, ?bytes, padZeros_fills a m.length, fun _ => padZeros_least, length_padded a m⟩
  case bytes => simp [padded, zeros]

/-! ### The blocks of an HMAC (R152) -/

/-- A message is two blocks where the bytes past the first block leave room in the second for 0x80 and the length. -/
theorem length_messageBlocks_eq_two (w : Nat) {r : Nat} (hm : m.length = blockLen a + r)
    (hr : r + 1 + lengthFieldLen a ≤ blockLen a) : (messageBlocks a w m).length = 2 := by
  have hleast : padZeros a m.length ≤ blockLen a - (r + 1 + lengthFieldLen a) :=
    padZeros_least (by
      rw [show m.length + 1 + (blockLen a - (r + 1 + lengthFieldLen a)) + lengthFieldLen a = 2 * blockLen a by omega]
      exact Nat.mul_mod_left 2 _)
  rw [length_messageBlocks]
  obtain ⟨q, hq⟩ := Nat.dvd_of_mod_eq_zero (padZeros_fills a m.length)
  rw [hq, Nat.mul_div_cancel_left q (blockLen_pos a)]
  have hlow : blockLen a * 1 < blockLen a * q := by omega
  have hhigh : blockLen a * q ≤ blockLen a * 2 := by omega
  exact Nat.le_antisymm (Nat.le_of_mul_le_mul_left hhigh (blockLen_pos a)) (Nat.lt_of_mul_lt_mul_left hlow)

/-- R142: the padded key under ipad or opad fills the first block. -/
theorem length_keyPad_append (a : Alg) (k : List Byte) (pad : Byte) (tail : List Byte) :
    (xorBytes (hmacKey a k) (rep pad (blockLen a)) ++ tail).length = blockLen a + tail.length := by
  simp [length_hmacKey]

/-- The counter bytes leave room in the second block of the inner hash (R152). -/
theorem counterBytes_fit (a : Alg) : 8 + 1 + lengthFieldLen a ≤ blockLen a := by cases a <;> decide

/-- The inner digest leaves room in the second block of the outer hash (R152). -/
theorem digest_fits (a : Alg) : digestLen a + 1 + lengthFieldLen a ≤ blockLen a := by cases a <;> decide

/-- Settles O30: the padded key is the first block, and what follows it fits the second. -/
theorem hmacInputsAreTwoBlocksEach : Obligations.HmacInputsAreTwoBlocksEach := by
  unfold Obligations.HmacInputsAreTwoBlocksEach
  intro a k m inner w hm hinner
  refine ⟨length_hmacKey a k, ?innerHash, ?outerHash⟩
  case innerHash =>
    exact length_messageBlocks_eq_two w (length_keyPad_append a k 0x36 m) (hm ▸ counterBytes_fit a)
  case outerHash =>
    exact length_messageBlocks_eq_two w (length_keyPad_append a k 0x5C inner) (hinner ▸ digest_fits a)

/-! ### The key in the place of the key (R142) -/

/-- R142: a key of at most B bytes is padded as it is. -/
theorem hmacKey_of_le (hk : k.length ≤ blockLen a) : hmacKey a k = k ++ zeros (blockLen a - k.length) := by
  simp only [hmacKey, if_neg (Nat.not_lt.2 hk)]

/-- R142: a longer key is padded as its hash. -/
theorem hmacKey_of_lt (hk : blockLen a < k.length) : hmacKey a k = hmacKey a (hash a k) := by
  have hhash : (hash a k).length ≤ blockLen a := (length_hash a k).trans_le (digestLen_le_blockLen a)
  rw [hmacKey_of_le hhash]
  simp only [hmacKey, if_pos hk]

/-- The HMAC reads a key only through its padded form. -/
theorem hmac_congr_key (m : List Byte) (hk : hmacKey a k = hmacKey a k') : hmac a k m = hmac a k' m := by
  simp only [hmac, hk]

/-- Settles O31: a long key and its hash have the same padded form, and padding a key of B bytes adds nothing. -/
theorem longKeyIsReplacedByItsHash : Obligations.LongKeyIsReplacedByItsHash := by
  unfold Obligations.LongKeyIsReplacedByItsHash
  refine ⟨fun a k m hk => hmac_congr_key m (hmacKey_of_lt hk), fun a k hk => ?keptKey⟩
  case keptKey => rw [hmacKey_of_le hk.le, hk, Nat.sub_self, zeros, List.replicate_zero, List.append_nil]

/-- R142: zeros the host appends to a short key are among those the padding would add. -/
theorem hmacKey_append_zeros {z : Nat} (hz : k.length + z ≤ blockLen a) : hmacKey a (k ++ zeros z) = hmacKey a k := by
  have hlen : (k ++ zeros z).length = k.length + z := by simp
  rw [hmacKey_of_le (hlen.trans_le hz), hmacKey_of_le (by omega), hlen, List.append_assoc, zeros, zeros,
    List.replicate_append_replicate, ← zeros, show z + (blockLen a - (k.length + z)) = blockLen a - k.length by omega]

/-- Settles O32: the two keys have the same padded form. -/
theorem trailingZeroKeyBytesDoNotMatter : Obligations.TrailingZeroKeyBytesDoNotMatter := by
  unfold Obligations.TrailingZeroKeyBytesDoNotMatter
  intro a k m z hz
  exact hmac_congr_key m (hmacKey_append_zeros hz)

/-! ### The HMAC command (R150) -/

/-- Settles O22: the completion stores the digest, and the bytes of DIG are those of `read_storeDigest`. -/
theorem hmacCompletes : Obligations.HmacCompletes := by
  unfold Obligations.HmacCompletes
  intro s p hb hp hc hw
  have hlen : (hmacOf p s).length = digestLen s.kalg := length_hmac _ _ _
  have hread := read_storeDigest (length_hmacOf_le p s) hw
  rw [hlen] at hread
  have hfits : digestLen s.kalg ≤ 64 := digestLen_le_digLen s.kalg
  refine ⟨(storeDigest (hmacOf p s) s).dig, exec_completes (i := .hmac) nofun hb hp hc, ?digest, ?zeros, ?beyond⟩
  case digest => exact fun j hj => (hread j).trans (if_pos hj)
  case zeros => exact fun j hj h64 => by rw [hread, if_neg (Nat.not_lt.2 hj), if_pos h64]
  case beyond => exact fun j h64 => by rw [hread, if_neg (by omega), if_neg (Nat.not_lt.2 h64)]

end Sys2Proof.Machine
end

section
/-! PROOFS. The dynamic truncation (spec/43_truncate.md): its window lies in the digest, and the completion step of TRUNC
reads the window out of DIG. -/

namespace Sys2Proof.Machine

/-- R202: a window that begins at an offset of four bits ends inside the shortest digest. -/
theorem window_le_digestLen (off : BitVec 4) (a : Alg) : off.toNat + 4 ≤ digestLen a := by
  have hoff : off.toNat < 16 := off.isLt
  have hlen : 20 ≤ digestLen a := by cases a <;> decide
  omega

/-- The offset as a number: the low nibble of the last byte (R201). -/
theorem toNat_dtOffset (len : Nat) (d : List Byte) : (dtOffset len d).toNat = (d.getD (len - 1) 0).toNat % 16 :=
  BitVec.toNat_setWidth ..

/-- Settles O33: `dt_eq` gives the result, and the window's bound lets the value be read as four bytes of the digest. -/
theorem truncationReadsItsWindow : Obligations.TruncationReadsItsWindow := by
  unfold Obligations.TruncationReadsItsWindow
  intro a d hd
  have hwindow := window_le_digestLen (dtOffset (digestLen a) d) a
  refine ⟨_, _, dt_eq a d, toNat_dtOffset _ d, ?lastByte, hwindow, dtValue_eq (hwindow.trans_eq hd.symm)⟩
  case lastByte => exact Nat.add_le_add_right (Nat.le_of_lt_succ (dtOffset (digestLen a) d).isLt) 3

/-- The first bytes of DIG stand at their indexes in DIG (R38). -/
theorem Memory.getD_readBytes_zero {m : Memory} {len j : Nat} (hj : j < len) :
    (m.readBytes 0 len).getD j 0 = m.read j := by
  rw [Memory.getD_readBytes hj, Nat.zero_add]

/-- The offset TRUNC takes from DIG (R200, R201). -/
theorem dtOffset_readBytes (a : Alg) (m : Memory) :
    dtOffset (digestLen a) (m.readBytes 0 (digestLen a)) =
      BitVec.ofNat 4 ((m.read (digestLen a - 1)).toNat % 16) := by
  have hlast : digestLen a - 1 < digestLen a := by cases a <;> decide
  rw [dtOffset_eq, Memory.getD_readBytes_zero hlast]

/-- The value TRUNC takes from a window inside the first bytes of DIG (R200, R201). -/
theorem dtValue_readBytes {off len : Nat} (m : Memory) (h : off + 4 ≤ len) :
    dtValue off (m.readBytes 0 len) =
      (m.read off ++ m.read (off + 1) ++ m.read (off + 2) ++ m.read (off + 3)).setWidth 31 := by
  rw [dtValue_eq (by rwa [Memory.length_readBytes])]
  repeat rw [Memory.getD_readBytes_zero (by omega)]

/-- Settles O23: the effect of TRUNC truncates the first L bytes of DIG, and those are read at their indexes in DIG. -/
theorem truncCompletes : Obligations.TruncCompletes := by
  unfold Obligations.TruncCompletes
  intro a s p hb hp hc off
  have hoff : dtOffset (digestLen a) (s.dig.readBytes 0 (digestLen a)) = BitVec.ofNat 4 off :=
    dtOffset_readBytes a s.dig
  have hnat : (BitVec.ofNat 4 off).toNat = off := by simp [off]
  have hvalue := dtValue_readBytes s.dig (window_le_digestLen (BitVec.ofNat 4 off) a)
  rw [exec_completes (i := .trunc a) nofun hb hp hc, effectState, truncated, hoff, hvalue, hnat]
  rfl

end Sys2Proof.Machine
end

section
/-! PROOFS. The reduction and the full derivation (spec/44_reduce.md): the remainder, the completion steps of REDUCE and
DERIVE, and DERIVE as HMAC, TRUNC and REDUCE in sequence. -/

namespace Sys2Proof.Machine

variable {s : State} {a : Alg} {d : List Byte} {rest : List Event}

/-! ### REDUCE (R220, R221) -/

/-- A 31-bit value has at most ten decimal digits, so ten digits and more keep it (R221). -/
theorem red_eq_toNat (t : BitVec 31) {n : Nat} (hn : 10 ≤ n) : red t n = t.toNat := by
  have hvalue : t.toNat < 10 ^ 10 := t.isLt.trans (by decide)
  have hpow : 10 ^ 10 ≤ 10 ^ n := Nat.pow_le_pow_right (by decide) hn
  exact Nat.mod_eq_of_lt (hvalue.trans_le hpow)

/-- Settles O34: the multiple of 10^N that is left out is the one by the quotient. -/
theorem reductionIsTheExactRemainder : Obligations.ReductionIsTheExactRemainder := by
  unfold Obligations.ReductionIsTheExactRemainder
  refine ⟨fun t n => ⟨?below, t.toNat / 10 ^ n, ?multiple⟩, fun t n hn => red_eq_toNat t hn⟩
  case below => exact Nat.mod_lt _ (Nat.pow_pos (by decide))
  case multiple => exact (Nat.div_add_mod' t.toNat (10 ^ n)).symm

/-- Settles O24: the effect of REDUCE writes the remainder, which fits CODE. -/
theorem reduceCompletes : Obligations.ReduceCompletes := by
  unfold Obligations.ReduceCompletes
  intro n s p hb hp hc
  exact ⟨_, exec_completes (i := .reduce n) nofun hb hp hc, toNat_code s.trunc n⟩

/-! ### DERIVE (R240) -/

/-- Truncating a digest of the algorithm's length, in the bytes of the digest (R201, R202). -/
theorem truncated_eq (hd : d.length = digestLen a) :
    let off := (d.getD (digestLen a - 1) 0).toNat % 16
    truncated a d s = { s with
      toff := BitVec.ofNat 4 off
      trunc := (d.getD off 0 ++ d.getD (off + 1) 0 ++ d.getD (off + 2) 0 ++ d.getD (off + 3) 0).setWidth 31 } := by
  intro off
  have hwindow := window_le_digestLen (dtOffset (digestLen a) d) a
  rw [truncated, dtValue_eq (hwindow.trans_eq hd.symm), toNat_dtOffset, dtOffset_eq]

/-- Settles O25: the effect of DERIVE truncates the digest it stores and reduces the value of that truncation, and the
bytes of DIG are those of `read_storeDigest`. -/
theorem deriveCompletes : Obligations.DeriveCompletes := by
  unfold Obligations.DeriveCompletes
  intro n s p hb hp hc hw d off t
  have hlen : (hmacOf p s).length = digestLen s.kalg := length_hmac _ _ _
  have hread := read_storeDigest (length_hmacOf_le p s) hw
  rw [hlen] at hread
  have hfits : digestLen s.kalg ≤ 64 := digestLen_le_digLen s.kalg
  refine ⟨(storeDigest d s).dig, BitVec.ofNat 32 (red t n), ?completion, toNat_code t n, ?digest, ?zeros, ?beyond⟩
  case completion =>
    have htrunc : truncated s.kalg (hmacOf p s) (storeDigest (hmacOf p s) s) =
        { storeDigest d s with toff := BitVec.ofNat 4 off, trunc := t } := truncated_eq hlen
    rw [exec_derive_pending hb hp hc, effectState, htrunc]
    rfl
  case digest => exact fun j hj => (hread j).trans (if_pos hj)
  case zeros => exact fun j hj h64 => (hread j).trans ((if_neg (Nat.not_lt.2 hj)).trans (if_pos h64))
  case beyond =>
    exact fun j h64 => (hread j).trans ((if_neg (Nat.not_lt.2 (hfits.trans h64))).trans (if_neg (Nat.not_lt.2 h64)))

/-! ### DERIVE as a sequence of commands (R240) -/

/-- The state a command leaves when it is accepted in an idle state and completed. -/
def performed (i : Instr) (s : State) : State := finish (effectState i ⟨i, s.keyData, counter s⟩ s)

/-- What acceptance sets, completion sets again, so only the command's effect is left. -/
theorem afterCommand_eq_performed (i : Instr) (rest : List Event) (s : State) :
    afterCommand i rest s = { performed i s with events := rest } := by
  cases i <;> rfl

/-- A command written and then completed by the engine, where its state check passes. -/
theorem runsThrough_command {i : Instr} (hw : i.wf = true) (hs : i ≠ .sreset) (hl : s.resetLine = false)
    (he : s.err = false) (hb : s.busy = false) (hc : stateCheck i s = none) :
    RunsThrough [issue i, .engine] rest s (performed i s) := by
  intro k
  have hrun := run_command (s := { s with events := issue i :: .engine :: rest }) hl rfl
    (decodeOfEncodeIsTheCommand i hw) hs hb (fun h => absurd (he.symm.trans h) nofun)
    ((stateCheck_congr i rfl rfl).trans hc) k
  rw [afterCommand_eq_performed] at hrun
  refine hrun.trans ?_
  cases i <;> rfl

/-- What TRUNC with the key's algorithm reads from DIG after HMAC is the digest HMAC stored (R150, R200). -/
theorem readBytes_performed_hmac (hw : s.dig.wf = true) :
    (performed .hmac s).dig.readBytes 0 (digestLen s.kalg) = hmac s.kalg s.key (counterBytes (counter s)) := by
  have h := readBytes_storeDigest (length_hmacOf_le ⟨.hmac, s.keyData, counter s⟩ s) hw
  rwa [hmacOf, length_hmac] at h

/-- R240: DERIVE truncates the digest it computes, the sequence the same digest read back from DIG. -/
theorem performed_derive (n : Nat) (hw : s.dig.wf = true) :
    performed (.derive n) s = performed (.reduce n) (performed (.trunc s.kalg) (performed .hmac s)) := by
  have htrunc : performed (.trunc s.kalg) (performed .hmac s) =
      finish (truncated s.kalg (hmac s.kalg s.key (counterBytes (counter s))) (performed .hmac s)) := by
    rw [performed, effectState, readBytes_performed_hmac hw]
  rw [htrunc]
  rfl

/-- Settles O26: both runs are run through command by command, and the states at their ends are those of
`performed_derive`. -/
theorem deriveIsHmacTruncReduceInSequence : Obligations.DeriveIsHmacTruncReduceInSequence := by
  unfold Obligations.DeriveIsHmacTruncReduceInSequence
  intro s n hb he hl hk hw h1 hn
  have hready : needReady s = none := if_pos hk
  have hderive : RunsThrough [issue (.derive n), .engine] [] s (performed (.derive n) s) :=
    runsThrough_command (wf_derive.2 ⟨h1, hn⟩) nofun hl he hb hready
  have hhmac (rest) : RunsThrough [issue .hmac, .engine] rest s (performed .hmac s) :=
    runsThrough_command rfl nofun hl he hb hready
  have htrunc (rest) : RunsThrough [issue (.trunc s.kalg), .engine] rest (performed .hmac s)
      (performed (.trunc s.kalg) (performed .hmac s)) :=
    runsThrough_command rfl nofun hl he rfl rfl
  have hreduce (rest) : RunsThrough [issue (.reduce n), .engine] rest
      (performed (.trunc s.kalg) (performed .hmac s))
      (performed (.reduce n) (performed (.trunc s.kalg) (performed .hmac s))) :=
    runsThrough_command (wf_reduce.2 ⟨h1, hn⟩) nofun hl he rfl rfl
  have hsequence : RunsThrough
      ([issue .hmac, .engine] ++ ([issue (.trunc s.kalg), .engine] ++ [issue (.reduce n), .engine])) [] s
      (performed (.derive n) s) := by
    rw [performed_derive n hw]
    exact (hhmac _).append ((htrunc _).append (hreduce _))
  exact ⟨{ performed (.derive n) s with events := [] }, hderive 0, hsequence 0, rfl, rfl, rfl⟩

end Sys2Proof.Machine
end

section
/-! PROOFS. Presenting a command (spec/60_exceptions.md R300 to R305): which CMD writes are dropped, discarded or
rejected, what acceptance latches, and SRESET. -/

namespace Sys2Proof.Machine

variable {s : State}

/-! ### Words that are not given to the command unit (R302 to R304, R307) -/

/-- Settles O12: BUSY is looked at before the word is decoded. -/
theorem commandWhileBusyIsDropped : Obligations.CommandWhileBusyIsDropped := by
  unfold Obligations.CommandWhileBusyIsDropped
  intro s w rest hl he hb hw
  exact (step_command hl he).trans (present_busy hb hw)

/-- Settles O13: ERR is looked at before the word is decoded. -/
theorem commandWhileErrIsDiscarded : Obligations.CommandWhileErrIsDiscarded := by
  unfold Obligations.CommandWhileErrIsDiscarded
  intro s w rest hl he hb herr hw hc
  exact (step_command hl he).trans (present_err hb herr hw hc)

/-- R302: recording an error other than E_KEYLEN keeps the key. -/
theorem raise_of_ne_keyLen {e : ErrCode} (he : e ≠ .eKeyLen) (s : State) :
    raise e s = { s with err := true, errcode := some e, done := true } :=
  if_neg he

/-- R90: the key length is no check of the decoder. -/
theorem decode_ne_keyLen (w : Word) : decode w ≠ .error .eKeyLen := fun h => by
  simpa using decode_error_cases h

/-- Settles O14: no error of decoding discards the key. -/
theorem undecodedWordIsRejectedAtTheWrite : Obligations.UndecodedWordIsRejectedAtTheWrite := by
  unfold Obligations.UndecodedWordIsRejectedAtTheWrite
  intro s w e rest hl he hb herr hd
  have hne : e ≠ .eKeyLen := fun h => decode_ne_keyLen w (h ▸ hd)
  calc step s = present w { s with events := rest } := step_command hl he
    _ = .next (raise e { s with events := rest }) := present_undecoded hb herr hd
    _ = _ := by rw [raise_of_ne_keyLen hne]

/-! ### The state check (R311) -/

theorem needLoading_eq_seq (hk : s.kstate ≠ .loading) : needLoading s = some .eSeq := if_neg hk

theorem needReady_eq_noKey (hk : s.kstate ≠ .ready) : needReady s = some .eNoKey := if_neg hk

/-- Settles O15: both commands are checked for KSTATE LOADING first. -/
theorem keyCommandOutOfSequenceIsRejected : Obligations.KeyCommandOutOfSequenceIsRejected := by
  unfold Obligations.KeyCommandOutOfSequenceIsRejected
  intro i s hi hb he hk
  have hcheck : stateCheck i s = some .eSeq := by
    obtain ⟨nb, rfl⟩ | rfl := hi
    · rw [stateCheck, needLoading_eq_seq hk]
    · exact needLoading_eq_seq hk
  have hs : i ≠ .sreset := by rintro rfl; cases hcheck
  exact exec_rejected hs hb (by simp [he]) hcheck

/-- Settles O16: both commands are checked for KSTATE READY. -/
theorem derivationWithoutAKeyIsRejected : Obligations.DerivationWithoutAKeyIsRejected := by
  unfold Obligations.DerivationWithoutAKeyIsRejected
  intro i s hi hb he hk
  have hcheck : stateCheck i s = some .eNoKey := by
    obtain rfl | ⟨n, rfl⟩ := hi <;> exact needReady_eq_noKey hk
  have hs : i ≠ .sreset := by rintro rfl; cases hcheck
  exact exec_rejected hs hb (by simp [he]) hcheck

/-- Settles O11: the conditions are those of the state check, and the counter is latched as its registers give it. -/
theorem acceptanceLatchesTheOperands : Obligations.AcceptanceLatchesTheOperands := by
  unfold Obligations.AcceptanceLatchesTheOperands
  intro i s hs hb he hload hready hlen
  rw [← counter_eq]
  exact exec_accepted hs hb he (stateCheck_eq_none hload hready hlen)

/-! ### SRESET (R305, R101) -/

/-- R101: after SRESET the only STATUS bit set is DONE, and no interrupt is enabled. -/
theorem statusWord_irq_softReset (s : State) :
    statusWord (softReset s) = 0x00000002#32 ∧ irq (softReset s) = false :=
  ⟨by simp [statusWord, errcodeField, KState.code, Alg.code], by simp [irq, doneIe, errIe, ovrIe]⟩

/-- R87, R90: SRESET uses no field, so another word with its OPC has a reserved bit set. -/
theorem decode_sreset_opc {w : Word} (ho : w.extractLsb' 0 8 = 0x01#8) (hw : w ≠ 0x00000001#32) :
    decode w = .error .eRsvd := by
  have hbits : w &&& Op.sreset.mask ≠ Op.sreset.bits := fun h => hw (bits_of_full_mask h).symm
  exact decode_eq_error.2 (.inr (.inl ⟨rfl, .sreset, ho.symm, hbits⟩))

/-- Settles O8: SRESET's word is looked for before everything else; another word with its OPC is not CLR_ERR's either,
and meets what any word that is not decoded meets. -/
theorem sresetIsPerformedInEveryState : Obligations.SresetIsPerformedInEveryState := by
  unfold Obligations.SresetIsPerformedInEveryState
  refine ⟨fun s => rfl, fun s rest hl he => (step_command hl he).trans (present_sreset _), ?_, ?_⟩
  · rintro s _ ⟨⟩
    exact statusWord_irq_softReset s
  · intro s w rest hl he ho hw
    have hc : w ≠ 0x00000002#32 := by rintro rfl; revert ho; decide
    split_ifs with hb herr
    · exact commandWhileBusyIsDropped s w rest hl he hb hw
    · exact commandWhileErrIsDiscarded s w rest hl he (eq_false_of_ne_true hb) herr hw hc
    · exact undecodedWordIsRejectedAtTheWrite s w _ rest hl he (eq_false_of_ne_true hb) (eq_false_of_ne_true herr)
        (decode_sreset_opc ho hw)

end Sys2Proof.Machine
end

section
/-! PROOFS. The error codes: ERRCODE holds the number of each (R310), and E_INTERNAL is reached by no step (R312). -/

namespace Sys2Proof.Machine

/-- Settles O50: the field of STATUS is the recorded code's encoding. -/
theorem errcodeHoldsTheNumberOfTheError : Obligations.ErrcodeHoldsTheNumberOfTheError := by
  unfold Obligations.ErrcodeHoldsTheNumberOfTheError
  intro s e he
  obtain ⟨-, -, hfield⟩ := statusWord_fields s
  have hcode : (statusWord s).extractLsb' 8 4 = errCodeBits e := by rw [hfield, he, errcodeField]
  rw [hcode]
  refine ⟨?_, ?_, ?_, ?_, ?_, ?_, ?_, ?_⟩
  all_goals rintro rfl; rfl

/-! ### Safe outcomes (R62, R312, R89) -/

theorem safeOutcome_of_next {o : Host.Outcome State Fault Refusal} (h : ∃ t, o = .next t) : SafeOutcome o := by
  obtain ⟨t, rfl⟩ := h
  trivial

/-- R61, R62: a read is answered, or faulted by the bus or by reset. -/
theorem safeOutcome_hostRead (off : BitVec 7) (width : Nat) (s : State) : SafeOutcome (hostRead off width s) := by
  unfold hostRead
  split
  · exact nofun
  · split
    · exact nofun
    · trivial

/-- R61, R62: a write is answered, or faulted by the bus or by reset; every word presented is answered. -/
theorem safeOutcome_hostWrite (off : BitVec 7) (width : Nat) (v : Word) (s : State) :
    SafeOutcome (hostWrite off width v s) := by
  unfold hostWrite
  split
  · exact nofun
  · split
    · exact nofun
    · split
      · exact safeOutcome_of_next (present_next v s)
      · trivial

/-- Settles O41: event by event. The engine's step always answers, since no truncation window leaves the digest
(`dt_eq`, under `engineStep_next`). -/
theorem everyStepIsSafe : Obligations.EveryStepIsSafe := by
  unfold Obligations.EveryStepIsSafe
  intro s
  cases he : s.events with
  | nil =>
    rw [step_nil he]
    exact safeOutcome_of_next (engineStep_next s)
  | cons e rest =>
    rw [step_cons he]
    cases e with
    | read off width => exact safeOutcome_hostRead off width _
    | write off width v => exact safeOutcome_hostWrite off width v _
    | engine => exact safeOutcome_of_next (engineStep_next _)
    | resetAssert => trivial
    | resetRelease => trivial

end Sys2Proof.Machine
end

section
/-! PROOFS. The reset input (R340, U6): its edges give the reset values, and while it is asserted every host transaction
faults and nothing else does. -/

namespace Sys2Proof.Machine

variable {s : State}

/-- Settles O7: each edge is an event of its own, which makes `hardReset` of the state at the edge's level. -/
theorem hardwareResetFromEveryState : Obligations.HardwareResetFromEveryState := by
  unfold Obligations.HardwareResetFromEveryState
  constructor
  case left => exact fun s rest he => step_cons he
  case right => exact fun s rest he => step_cons he

/-- The next event is a host transaction, good or bad. -/
def HostTransaction (s : State) : Prop :=
  ∃ (off : BitVec 7) (width : Nat) (rest : List Event),
    s.events = .read off width :: rest ∨ ∃ v, s.events = .write off width v :: rest

/-- In reset a step faults exactly on a host transaction, with accessDuringReset. -/
theorem step_eq_fault_inReset {r : Fault} (hl : s.resetLine = true) :
    step s = .fault r ↔ HostTransaction s ∧ r = .accessDuringReset := by
  unfold HostTransaction
  cases he : s.events with
  | nil => simp [step_nil he, engineStep_ne_fault]
  | cons e rest =>
    rw [step_cons he]
    cases e with
    | read off width => simp [runEvent, hostRead, hl, eq_comm]
    | write off width v => simp [runEvent, hostWrite, hl, eq_comm]
    | engine => simp [runEvent, engineStep_ne_fault]
    | resetAssert => simp [runEvent]
    | resetRelease => simp [runEvent]

/-- Settles O40: the faults of a step in reset. -/
theorem transactionsInResetFault : Obligations.TransactionsInResetFault := by
  unfold Obligations.TransactionsInResetFault
  intro s hl
  refine ⟨⟨?faults, fun htr => ⟨.accessDuringReset, (step_eq_fault_inReset hl).2 ⟨htr, rfl⟩⟩⟩,
    fun r h => ((step_eq_fault_inReset hl).1 h).2⟩
  case faults =>
    rintro ⟨r, h⟩
    exact ((step_eq_fault_inReset hl).1 h).1

end Sys2Proof.Machine
end

section
/-! PROOFS. A pending command over the steps of a run (R350): only the engine's step completes it and only reset and
SRESET abort it, so with plain transactions scheduled it completes. -/

namespace Sys2Proof.Machine

variable {s t : State} {p : Pending}

/-! ### One step with a command pending (R304, R305, R350) -/

/-- R68: no read touches the pending command. -/
theorem readReg_pending_busy (r : Reg) (s : State) :
    (readReg r s).pending = s.pending ∧ (readReg r s).busy = s.busy := by
  obtain ⟨v, d, hr⟩ := readReg_frame r s
  rw [hr]
  exact ⟨rfl, rfl⟩

/-- R350: no write to a register other than CMD touches the pending command. -/
theorem writeReg_pending_busy (r : Reg) (v : Word) (s : State) :
    (writeReg r v s).pending = s.pending ∧ (writeReg r v s).busy = s.busy := by
  obtain ⟨_, _, _, _, _, _, _, _, hr⟩ := writeReg_frame r v s
  rw [hr]
  exact ⟨rfl, rfl⟩

theorem Invariant.busy_of_pending (h : Invariant s) (hp : s.pending = some p) : s.busy = true := by
  rw [h.busy, hp]
  rfl

/-- Settles O58: each kind of step with BUSY = 1; the kinds that need BUSY = 0 are none of them. -/
theorem pendingCommandIsAbortedOnlyByReset : Obligations.PendingCommandIsAbortedOnlyByReset := by
  unfold Obligations.PendingCommandIsAbortedOnlyByReset
  intro s t p hs hp h
  have hb : s.busy = true := hs.busy_of_pending hp
  cases step_case h with
  | idle _ hn => simp [hb, hp] at hn
  | completed _ ht => exact .inr (.inl ⟨rfl, rfl, rfl, ht⟩)
  | abnormal q _ _ hq hsr => exact absurd hsr (hs.pending q hq).notSreset
  | read r rest _ he =>
    obtain ⟨hpending, hbusy⟩ := readReg_pending_busy r (taken s)
    exact .inl ⟨hpending.trans hp, hbusy.trans hb, _, rest, he, nofun⟩
  | write r v rest _ he =>
    obtain ⟨hpending, hbusy⟩ := writeReg_pending_busy r v (taken s)
    exact .inl ⟨hpending.trans hp, hbusy.trans hb, _, rest, he, nofun⟩
  | performed hc =>
    obtain ⟨rest, he⟩ := hc.event
    exact .inr (.inr ⟨rfl, rfl, rest, .inr (.inr he)⟩)
  | dropped w hc =>
    obtain ⟨rest, he⟩ := hc.event
    exact .inl ⟨hp, hb, _, rest, he, nofun⟩
  | discarded _ _ _ _ hidle | undecoded _ _ _ hidle | rejected _ _ _ _ hidle | accepted _ _ _ _ hidle =>
    exact absurd (hb.symm.trans hidle) nofun
  | asserted rest he => exact .inr (.inr ⟨rfl, rfl, rest, .inl he⟩)
  | released rest he => exact .inr (.inr ⟨rfl, rfl, rest, .inr (.inl he)⟩)

/-! ### The schedule over a step (R70) -/

/-- A step takes one event off the schedule and puts none on. -/
theorem step_events (h : step s = .next t) : t.events = s.events.tail := by
  cases step_case h with
  | completed p => exact (effectState_own p.cmd p (taken s)).2
  | read r =>
    obtain ⟨v, d, hr⟩ := readReg_frame r (taken s)
    rw [hr]
    rfl
  | write r v =>
    obtain ⟨_, _, _, _, _, _, _, _, hr⟩ := writeReg_frame r v (taken s)
    rw [hr]
    rfl
  | undecoded w e | rejected w i e => exact raise_events (taken s) e
  | _ => rfl

/-! ### Completion (R350) -/

/-- The schedule holds plain transactions and the engine's events only. -/
def PlainSchedule (s : State) : Prop := ∀ e ∈ s.events, plainTransaction e = true ∨ e = .engine

theorem PlainSchedule.of_step (hpl : PlainSchedule s) (h : step s = .next t) : PlainSchedule t := fun e he =>
  hpl e (List.mem_of_mem_tail (step_events h ▸ he))

theorem PlainSchedule.head {e : Event} {rest : List Event} (hpl : PlainSchedule s) (he : s.events = e :: rest) :
    plainTransaction e = true ∨ e = .engine :=
  hpl e (he ▸ List.mem_cons_self)

/-- R62: a plain transaction reaches a register. -/
theorem PlainSchedule.not_badTransaction (hpl : PlainSchedule s) : ¬ BadTransaction s := by
  rintro ⟨off, width, rest, he | ⟨v, he⟩, ht⟩
  all_goals
    have hplain := hpl.head he
    simp [plainTransaction, ht] at hplain

/-- R62, R312: with the reset input released, a step of a plain schedule is answered. -/
theorem PlainSchedule.step_next (hpl : PlainSchedule s) (hl : s.resetLine = false) : ∃ t, step s = .next t := by
  have hsafe := everyStepIsSafe s
  cases h : step s with
  | next t => exact ⟨t, rfl⟩
  | fault r => exact absurd ((step_eq_fault hl).1 h).1 hpl.not_badTransaction
  | refused r => rw [h] at hsafe; exact hsafe.elim

/-- R101, R340: a plain schedule begins with no reset. -/
theorem PlainSchedule.no_abort (hpl : PlainSchedule s) (rest : List Event) :
    ¬ (s.events = .resetAssert :: rest ∨ s.events = .resetRelease :: rest ∨
      s.events = .write 0x04#7 4 0x00000001#32 :: rest) := by
  rintro (he | he | he)
  all_goals exact absurd (hpl.head he) (by decide)

/-- A command has completed (R306). -/
def Completed (t : State) : Prop := t.busy = false ∧ t.done = true ∧ t.pending = none

/-- R350: a step of a plain schedule completes the pending command or takes an event and leaves it pending. -/
theorem PlainSchedule.step_pending (hpl : PlainSchedule s) (hs : Invariant s) (hp : s.pending = some p) :
    ∃ t, step s = .next t ∧ (Completed t ∨ (t.pending = some p ∧ ∃ e, s.events = e :: t.events)) := by
  obtain ⟨t, h⟩ := hpl.step_next (hs.released_of_pending hp)
  refine ⟨t, h, ?_⟩
  obtain ⟨hpending, -, e, rest, he, -⟩ | ⟨hnone, hb, hd, -⟩ | ⟨-, -, rest, habort⟩ :=
    pendingCommandIsAbortedOnlyByReset s t p hs hp h
  · refine .inr ⟨hpending, e, ?_⟩
    rw [step_events h, he, List.tail_cons]
  · exact .inl ⟨hb, hd, hnone⟩
  · exact absurd habort (hpl.no_abort rest)

/-- R350: a pending command completes within one step more than there are events, by induction on the schedule. -/
theorem PlainSchedule.completes (hpl : PlainSchedule s) (hs : Invariant s) (hp : s.pending = some p) :
    ∃ k t, k ≤ s.events.length + 1 ∧ Host.Core.run core k s = .next t ∧ Completed t := by
  induction hes : s.events generalizing s with
  | nil =>
    obtain ⟨t, h, hdone | ⟨-, e, he⟩⟩ := hpl.step_pending hs hp
    · exact ⟨1, t, Nat.le_refl 1, run_step h 0, hdone⟩
    · exact absurd (hes.symm.trans he) nofun
  | cons e rest ih =>
    obtain ⟨t, h, hdone | ⟨hpending, e', he⟩⟩ := hpl.step_pending hs hp
    · exact ⟨1, t, Nat.le_add_left 1 _, run_step h 0, hdone⟩
    · have hrest : t.events = rest := (List.cons.inj (he.symm.trans hes)).2
      obtain ⟨k, u, hk, hrun, hdone⟩ :=
        ih (hpl.of_step h) (everyStepKeepsTheInvariant s t hs h) hpending hrest
      exact ⟨k + 1, u, Nat.succ_le_succ hk, (run_step h k).trans hrun, hdone⟩

/-- Settles O59: BUSY = 1 means that a command is pending. -/
theorem acceptedCommandCompletes : Obligations.AcceptedCommandCompletes := by
  unfold Obligations.AcceptedCommandCompletes
  intro s hs hb hpl
  obtain ⟨p, hp⟩ := Option.isSome_iff_exists.1 (hs.busy.symm.trans hb)
  exact PlainSchedule.completes hpl hs hp

end Sys2Proof.Machine
end
